-- ==== Sys2Proof/Word.lean ====
section
/-! DEFINITION. The word types of morse_encoder_fsm (spec/00_scope.md R10, R13): every value is an unsigned
bit vector, bit 0 the least significant. -/

namespace Sys2Proof

/-- A text byte or a transcript symbol (`TXT_W`, `SYM_W` of R10). -/
abbrev Byte := BitVec 8

/-- A signal code (`CODE_W` of R10; format SC16, R93). -/
abbrev Code := BitVec 16

end Sys2Proof
end

