-- ==== Sys2Proof/Config.lean ====
section
/-! DEFINITION. What an implementation fixes and what the spec leaves open. -/

namespace Sys2Proof.Config

/-- One less than `UNIT_CYCLES`: a free value (R10, D2: OPEN, a positive integer; log entry 7). -/
opaque unitCyclesPred : Nat

/-- `UNIT_CYCLES`, the clock cycles in one base unit: some positive integer. No rule depends on its value (R10). -/
def unitCycles : Nat := unitCyclesPred + 1

/-- The clock cycles a hold of `k` base units lasts in a clocked build (R305). -/
def holdCycles (k : Nat) : Nat := k * unitCycles

/-- What `rd_data` shows while `rd_valid = 0`: a free value, one for each read pointer and time (R42, U9; log entry 8). -/
opaque rdDataIdle : BitVec 9 → Nat → Byte

end Sys2Proof.Config
end

