-- ==== Sys2Proof/Syntax.lean ====
section
/-! DEFINITION. The instructions: one constructor for each row of spec/opcode_table.json (R99), and the
encoded values they are read from (R90). -/

namespace Sys2Proof

/-- The formats of R90; `op` is the table's format of the operations that are selected by state (R99). -/
inductive Format where
  | txw9 | text8 | sc16 | win3 | sym8 | op
  deriving DecidableEq, Repr

/-- The transcript's alphabet (format SYM8, R97): no other symbol exists, so no other can be appended. -/
inductive Symbol where
  | dot | dash | space | newline
  deriving DecidableEq, Repr

/-- The operations of format OP: no bit pattern selects them (R99). An operand is what the operation's rule gives it. -/
inductive Op where
  | lookup (idx : BitVec 5)
  | writeStart
  | seqOverflow
  | playStart
  | fetchLetter
  | walkEnd
  | tick
  | onExpiry
  | offExpiry
  | wgapExpiry
  | nextLetter
  | nextGap
  | lgapExpiry
  | nextLast
  | append (sym : Symbol)
  | appendDrop (sym : Symbol)
  | pop
  | drain (max : Nat)
  | reset
  deriving DecidableEq, Repr

/-- One encoded input of the block, each format at its own width (R90). -/
inductive Encoded where
  | txw9 (w : BitVec 9)
  | text8 (b : Byte)
  | sc16 (c : Code)
  | win3 (w : BitVec 3)
  | sym8 (b : Byte)
  | op (o : Op)
  deriving DecidableEq, Repr

/-- The format an encoded input has. -/
def Encoded.format : Encoded → Format
  | .txw9 _ => .txw9
  | .text8 _ => .text8
  | .sc16 _ => .sc16
  | .win3 _ => .win3
  | .sym8 _ => .sym8
  | .op _ => .op

/-- The instructions, in the order of the opcode table. -/
inductive Instr where
  /-- BYTE (TXW9, R169): a text-port word with `end = 0`. -/
  | byteWord (data : Byte)
  /-- END (TXW9, R168): a text-port word with `end = 1`; `data` is ignored. -/
  | endWord (data : Byte)
  /-- LETTER.A (TEXT8, R164). -/
  | upperA
  /-- LETTER.B (TEXT8, R164). -/
  | upperB
  /-- LETTER.C (TEXT8, R164). -/
  | upperC
  /-- LETTER.D (TEXT8, R164). -/
  | upperD
  /-- LETTER.E (TEXT8, R164). -/
  | upperE
  /-- LETTER.F (TEXT8, R164). -/
  | upperF
  /-- LETTER.G (TEXT8, R164). -/
  | upperG
  /-- LETTER.H (TEXT8, R164). -/
  | upperH
  /-- LETTER.I (TEXT8, R164). -/
  | upperI
  /-- LETTER.J (TEXT8, R164). -/
  | upperJ
  /-- LETTER.K (TEXT8, R164). -/
  | upperK
  /-- LETTER.L (TEXT8, R164). -/
  | upperL
  /-- LETTER.M (TEXT8, R164). -/
  | upperM
  /-- LETTER.N (TEXT8, R164). -/
  | upperN
  /-- LETTER.O (TEXT8, R164). -/
  | upperO
  /-- LETTER.P (TEXT8, R164). -/
  | upperP
  /-- LETTER.Q (TEXT8, R164). -/
  | upperQ
  /-- LETTER.R (TEXT8, R164). -/
  | upperR
  /-- LETTER.S (TEXT8, R164). -/
  | upperS
  /-- LETTER.T (TEXT8, R164). -/
  | upperT
  /-- LETTER.U (TEXT8, R164). -/
  | upperU
  /-- LETTER.V (TEXT8, R164). -/
  | upperV
  /-- LETTER.W (TEXT8, R164). -/
  | upperW
  /-- LETTER.X (TEXT8, R164). -/
  | upperX
  /-- LETTER.Y (TEXT8, R164). -/
  | upperY
  /-- LETTER.Z (TEXT8, R164). -/
  | upperZ
  /-- LETTER.a (TEXT8, R164; folds to upper case). -/
  | lowerA
  /-- LETTER.b (TEXT8, R164; folds to upper case). -/
  | lowerB
  /-- LETTER.c (TEXT8, R164; folds to upper case). -/
  | lowerC
  /-- LETTER.d (TEXT8, R164; folds to upper case). -/
  | lowerD
  /-- LETTER.e (TEXT8, R164; folds to upper case). -/
  | lowerE
  /-- LETTER.f (TEXT8, R164; folds to upper case). -/
  | lowerF
  /-- LETTER.g (TEXT8, R164; folds to upper case). -/
  | lowerG
  /-- LETTER.h (TEXT8, R164; folds to upper case). -/
  | lowerH
  /-- LETTER.i (TEXT8, R164; folds to upper case). -/
  | lowerI
  /-- LETTER.j (TEXT8, R164; folds to upper case). -/
  | lowerJ
  /-- LETTER.k (TEXT8, R164; folds to upper case). -/
  | lowerK
  /-- LETTER.l (TEXT8, R164; folds to upper case). -/
  | lowerL
  /-- LETTER.m (TEXT8, R164; folds to upper case). -/
  | lowerM
  /-- LETTER.n (TEXT8, R164; folds to upper case). -/
  | lowerN
  /-- LETTER.o (TEXT8, R164; folds to upper case). -/
  | lowerO
  /-- LETTER.p (TEXT8, R164; folds to upper case). -/
  | lowerP
  /-- LETTER.q (TEXT8, R164; folds to upper case). -/
  | lowerQ
  /-- LETTER.r (TEXT8, R164; folds to upper case). -/
  | lowerR
  /-- LETTER.s (TEXT8, R164; folds to upper case). -/
  | lowerS
  /-- LETTER.t (TEXT8, R164; folds to upper case). -/
  | lowerT
  /-- LETTER.u (TEXT8, R164; folds to upper case). -/
  | lowerU
  /-- LETTER.v (TEXT8, R164; folds to upper case). -/
  | lowerV
  /-- LETTER.w (TEXT8, R164; folds to upper case). -/
  | lowerW
  /-- LETTER.x (TEXT8, R164; folds to upper case). -/
  | lowerX
  /-- LETTER.y (TEXT8, R164; folds to upper case). -/
  | lowerY
  /-- LETTER.z (TEXT8, R164; folds to upper case). -/
  | lowerZ
  /-- SPACE (TEXT8, R165). -/
  | space
  /-- IGNORE (TEXT8, R166): the byte that is neither a letter nor a space. -/
  | ignore (b : Byte)
  /-- GAP (SC16, R194): the word-gap code 0x0000. -/
  | gap
  /-- CODE.A (SC16, R124). -/
  | codeA
  /-- CODE.B (SC16, R125). -/
  | codeB
  /-- CODE.C (SC16, R126). -/
  | codeC
  /-- CODE.D (SC16, R127). -/
  | codeD
  /-- CODE.E (SC16, R128). -/
  | codeE
  /-- CODE.F (SC16, R129). -/
  | codeF
  /-- CODE.G (SC16, R130). -/
  | codeG
  /-- CODE.H (SC16, R131). -/
  | codeH
  /-- CODE.I (SC16, R132). -/
  | codeI
  /-- CODE.J (SC16, R133). -/
  | codeJ
  /-- CODE.K (SC16, R134). -/
  | codeK
  /-- CODE.L (SC16, R135). -/
  | codeL
  /-- CODE.M (SC16, R136). -/
  | codeM
  /-- CODE.N (SC16, R137). -/
  | codeN
  /-- CODE.O (SC16, R138). -/
  | codeO
  /-- CODE.P (SC16, R139). -/
  | codeP
  /-- CODE.Q (SC16, R140). -/
  | codeQ
  /-- CODE.R (SC16, R141). -/
  | codeR
  /-- CODE.S (SC16, R142). -/
  | codeS
  /-- CODE.T (SC16, R143). -/
  | codeT
  /-- CODE.U (SC16, R144). -/
  | codeU
  /-- CODE.V (SC16, R145). -/
  | codeV
  /-- CODE.W (SC16, R146). -/
  | codeW
  /-- CODE.X (SC16, R147). -/
  | codeX
  /-- CODE.Y (SC16, R148). -/
  | codeY
  /-- CODE.Z (SC16, R149). -/
  | codeZ
  /-- CODE.OTHER (SC16, R212): a non-zero code that is no ROM code. -/
  | codeOther (c : Code)
  /-- DASH (WIN3 `111`, R197). -/
  | dash
  /-- DOT (WIN3 `10x`, R198); `x` is the bit not looked at. -/
  | dot10 (x : BitVec 1)
  /-- DOT (WIN3 `110`, R198). -/
  | dot110
  /-- PAD (WIN3 `0xx`, R199); `xx` are the bits not looked at. -/
  | pad (xx : BitVec 2)
  /-- SYM.DOT (SYM8, R97). -/
  | symDot
  /-- SYM.DASH (SYM8, R97). -/
  | symDash
  /-- SYM.SPACE (SYM8, R97). -/
  | symSpace
  /-- SYM.NEWLINE (SYM8, R97). -/
  | symNewline
  /-- LOOKUP (OP, R121). -/
  | lookup (idx : BitVec 5)
  /-- WRITE_START (OP, R163). -/
  | writeStart
  /-- SEQ_OVERFLOW (OP, R167). -/
  | seqOverflow
  /-- PLAY_START (OP, R193). -/
  | playStart
  /-- FETCH_LETTER (OP, R195). -/
  | fetchLetter
  /-- WALK_END (OP, R196). -/
  | walkEnd
  /-- TICK (OP, R200). -/
  | tick
  /-- ON_EXPIRY (OP, R201). -/
  | onExpiry
  /-- OFF_EXPIRY (OP, R202). -/
  | offExpiry
  /-- WGAP_EXPIRY (OP, R203). -/
  | wgapExpiry
  /-- NEXT_LETTER (OP, R204). -/
  | nextLetter
  /-- NEXT_GAP (OP, R205). -/
  | nextGap
  /-- LGAP_EXPIRY (OP, R206). -/
  | lgapExpiry
  /-- NEXT_LAST (OP, R207). -/
  | nextLast
  /-- APPEND (OP, R233). -/
  | append (sym : Symbol)
  /-- APPEND_DROP (OP, R234). -/
  | appendDrop (sym : Symbol)
  /-- POP (OP, R236). -/
  | pop
  /-- DRAIN (OP, R238): up to `max` POPs. -/
  | drain (max : Nat)
  /-- RESET (OP, R292). -/
  | reset
  deriving DecidableEq, Repr

/-- The format of an instruction's row (R99). -/
def Instr.format : Instr → Format
  | .byteWord _ | .endWord _ => .txw9
  | .upperA | .upperB | .upperC | .upperD | .upperE | .upperF | .upperG | .upperH | .upperI | .upperJ | .upperK | .upperL | .upperM
  | .upperN | .upperO | .upperP | .upperQ | .upperR | .upperS | .upperT | .upperU | .upperV | .upperW | .upperX | .upperY | .upperZ
  | .lowerA | .lowerB | .lowerC | .lowerD | .lowerE | .lowerF | .lowerG | .lowerH | .lowerI | .lowerJ | .lowerK | .lowerL | .lowerM
  | .lowerN | .lowerO | .lowerP | .lowerQ | .lowerR | .lowerS | .lowerT | .lowerU | .lowerV | .lowerW | .lowerX | .lowerY | .lowerZ
  | .space | .ignore _ => .text8
  | .gap | .codeA | .codeB | .codeC | .codeD | .codeE | .codeF | .codeG | .codeH | .codeI | .codeJ | .codeK | .codeL
  | .codeM | .codeN | .codeO | .codeP | .codeQ | .codeR | .codeS | .codeT | .codeU | .codeV | .codeW | .codeX | .codeY
  | .codeZ | .codeOther _ => .sc16
  | .dash | .dot10 _ | .dot110 | .pad _ => .win3
  | .symDot | .symDash | .symSpace | .symNewline => .sym8
  | .lookup _ | .writeStart | .seqOverflow | .playStart | .fetchLetter | .walkEnd | .tick
  | .onExpiry | .offExpiry | .wgapExpiry | .nextLetter | .nextGap | .lgapExpiry | .nextLast
  | .append _ | .appendDrop _ | .pop | .drain _ | .reset => .op

/-- A letter, by its ROM index 0..25 (R27). -/
abbrev Letter := Fin 26

/-- The upper-case TEXT8 letter rows in ROM order (R99). -/
def Instr.upperRows : List Instr :=
  [.upperA, .upperB, .upperC, .upperD, .upperE, .upperF, .upperG, .upperH, .upperI, .upperJ, .upperK, .upperL, .upperM,
   .upperN, .upperO, .upperP, .upperQ, .upperR, .upperS, .upperT, .upperU, .upperV, .upperW, .upperX, .upperY, .upperZ]

/-- The lower-case TEXT8 letter rows in ROM order (R99). -/
def Instr.lowerRows : List Instr :=
  [.lowerA, .lowerB, .lowerC, .lowerD, .lowerE, .lowerF, .lowerG, .lowerH, .lowerI, .lowerJ, .lowerK, .lowerL, .lowerM,
   .lowerN, .lowerO, .lowerP, .lowerQ, .lowerR, .lowerS, .lowerT, .lowerU, .lowerV, .lowerW, .lowerX, .lowerY, .lowerZ]

/-- The SC16 rows CODE.A to CODE.Z in ROM order (R99). -/
def Instr.codeRowInstrs : List Instr :=
  [.codeA, .codeB, .codeC, .codeD, .codeE, .codeF, .codeG, .codeH, .codeI, .codeJ, .codeK, .codeL, .codeM,
   .codeN, .codeO, .codeP, .codeQ, .codeR, .codeS, .codeT, .codeU, .codeV, .codeW, .codeX, .codeY, .codeZ]

/-- The row LETTER.A .. LETTER.Z of the letter `k`. -/
def Instr.upper (k : Letter) : Instr := Instr.upperRows.get k

/-- The row LETTER.a .. LETTER.z of the letter `k`. -/
def Instr.lower (k : Letter) : Instr := Instr.lowerRows.get k

/-- The row CODE.A .. CODE.Z of the letter `k`. -/
def Instr.code (k : Letter) : Instr := Instr.codeRowInstrs.get k

end Sys2Proof
end

