-- ==== Sys2Proof/Machine/Params.lean ====
section
/-! DEFINITION. The parameters of spec/00_scope.md R10 that have a value, and the symbol bytes of
spec/30_encoding.md R97. -/

namespace Sys2Proof.Machine

/-- `SEQ_CAP`, the capacity of the sequence (R10). -/
@[simp] def seqCap : Nat := 512

/-- `FIFO_CAP`, the capacity of the transcript buffer (R10). -/
@[simp] def fifoCap : Nat := 512

/-- `DOT_UNITS`, the on-time of a dot (R10, R198). -/
def dotUnits : BitVec 2 := 1

/-- `DASH_UNITS`, the on-time of a dash (R10, R197). -/
def dashUnits : BitVec 2 := 3

/-- `ELEM_GAP_UNITS`, the off-time after every element (R10, R201). -/
def elemGapUnits : BitVec 2 := 1

/-- `LETTER_GAP_UNITS`, the extra off-time between codes (R10, R204). -/
def letterGapUnits : BitVec 2 := 1

/-- `WORD_GAP_UNITS`, the off-time of the word-gap code (R10, R194). -/
def wordGapUnits : BitVec 2 := 1

/-- The byte of a symbol (R97). -/
def symbolByte : Symbol → Byte
  | .dot => 0x2E
  | .dash => 0x2D
  | .space => 0x20
  | .newline => 0x0A

/-- The four bytes of the transcript's alphabet (R97). -/
def symbols : List Byte := [symbolByte .dot, symbolByte .dash, symbolByte .space, symbolByte .newline]

/-- The word-gap code, reserved as no letter (R93). -/
def gapCode : Code := 0x0000

end Sys2Proof.Machine
end

