-- ==== Sys2Proof/Machine/Rom.lean ====
section
/-! DEFINITION. `signal_code_rom` (spec/40_signal_code_rom.md): the 26 constants, one rule per letter. -/

namespace Sys2Proof.Machine

/-- The 26 codes in ROM order (R27; each constant by its own rule, R124 for A to R149 for Z). -/
def rom : List Code :=
  [0xB800, 0xEA80,
   0xEBA0, 0xEA00,
   0x8000, 0xAE80,
   0xEE80, 0xAA00,
   0xA000, 0xBBB8,
   0xEB80, 0xBA80,
   0xEE00, 0xE800,
   0xEEE0, 0xBBA0,
   0xEEB8, 0xBA00,
   0xA800, 0xE000,
   0xAE00, 0xAB80,
   0xBB80, 0xEAE0,
   0xEBB8, 0xEEA0]

/-- LOOKUP of a letter: `MemRead(rom:k, 16)` (R61, R121). -/
def romWord (k : Fin 26) : Code := rom.get k

/-- LOOKUP of a 5-bit index: outside 0..25 the ROM is not read and there is no value (R61, R122). -/
def romRead (idx : BitVec 5) : Option Code := rom[idx.toNat]?

end Sys2Proof.Machine
end

