-- ==== Sys2Proof/Machine/Operands.lean ====
section
/-! DEFINITION. Every operand computation of the block: the fold and the class of a text byte (spec/30_encoding.md
R92, R98), the decode window (R96), `shl16` (spec/00_scope.md R14), the pointer and counter steps (R216, R242). -/

namespace Sys2Proof.Machine

/-- `fold(b)`: 0x61..0x7A minus 0x20, every other byte as it is (R92). -/
def fold (b : Byte) : Byte :=
  if 0x61 ≤ b.toNat ∧ b.toNat ≤ 0x7A then b - 0x20 else b

/-- The three classes of a text byte (R92). -/
inductive TextClass where
  | letter (k : Letter)
  | space
  | other
  deriving DecidableEq, Repr

/-- The class of a folded byte `c`: LETTER with index `c − 0x41`, SPACE, or IGNORE (R92, R98). -/
def classOfFolded (c : Byte) : TextClass :=
  if h : 0x41 ≤ c.toNat ∧ c.toNat ≤ 0x5A then .letter ⟨c.toNat - 0x41, by omega⟩
  else if c = 0x20 then .space
  else .other

/-- The class of a text byte: fold first, then the tests of R169. -/
def classify (b : Byte) : TextClass := classOfFolded (fold b)

/-- The window `shreg[15:13]` (R96). -/
def window (shreg : Code) : BitVec 3 := shreg.extractLsb' 13 3

/-- `shl16(v, n)`: zeros enter at bit 0, bits leaving bit 15 are lost (R14). -/
def shl16 (v : Code) (n : Nat) : Code := v <<< n

/-- A dot or a dash (R17; register `cur_elem`, R32). -/
inductive Elem where
  | dot
  | dash
  deriving DecidableEq, Repr

/-- The bit positions the walk advances over after an element: 3 after a dash, 1 after a dot (R202). -/
def advance : Elem → Nat
  | .dash => 3
  | .dot => 1

/-- `drop_cnt` after one more drop: saturates at 0xFFFF (R39, R242). -/
def satIncr (d : BitVec 16) : BitVec 16 :=
  if d.toNat < 0xFFFF then d + 1 else d

end Sys2Proof.Machine
end

