-- ==== Sys2Proof/Machine/State.lean ====
section
/-! DEFINITION. The state of the block (spec/10_state.md R20 to R39), the model's own fields beside it, the reasons a
step can stop, and the state after RESET (R53). -/

namespace Sys2Proof.Machine

/-- `phase` (R21). The value 3 is never taken, so it has no constructor (U20). -/
inductive Phase where
  | idle
  | build
  | play
  deriving DecidableEq, Repr

/-- The numeric encoding of `phase` (R21). -/
def Phase.toBits : Phase → BitVec 2
  | .idle => 0
  | .build => 1
  | .play => 2

/-- `p_state` (R28). -/
inductive PState where
  | pIdle
  | pFetch
  | pWalk
  | pOn
  | pOff
  | pWgap
  | pNext
  | pLgap
  deriving DecidableEq, Repr

/-- The numeric encoding of `p_state` (R28). -/
def PState.toBits : PState → BitVec 3
  | .pIdle => 0
  | .pFetch => 1
  | .pWalk => 2
  | .pOn => 3
  | .pOff => 4
  | .pWgap => 5
  | .pNext => 6
  | .pLgap => 7

/-- The holding states, in which time passes (R18, R191). -/
def PState.holding : PState → Bool
  | .pOn | .pOff | .pWgap | .pLgap => true
  | .pIdle | .pFetch | .pWalk | .pNext => false

/-- The instantaneous states, left in zero time (R18, R191). -/
def PState.instantaneous : PState → Bool
  | .pFetch | .pWalk | .pNext => true
  | .pIdle | .pOn | .pOff | .pWgap | .pLgap => false

/-- The events of the output trace (R15). -/
inductive Event where
  | on
  | off
  | append (sym : Symbol)
  | done
  deriving DecidableEq, Repr

/-- An event with its stamp: the TICKs since the last END was accepted (R15). -/
structure Stamped where
  time : Nat
  event : Event
  deriving DecidableEq, Repr

/-- What an agent of R281 offers to do: the steps of WRITER, TIME, READER and RESETTER, and no other. PLAYER's steps are
the block's own. -/
inductive Offer where
  /-- WRITER: a text-port word (R41, R91). -/
  | word (w : BitVec 9)
  /-- WRITER: the BYTE word that carries `b`, given as the TEXT8 value that selects its operation (R92). -/
  | text (b : Byte)
  /-- TIME: one base unit (R200). -/
  | tick
  /-- READER (R236). -/
  | pop
  /-- READER (R238). -/
  | drain (max : Nat)
  /-- RESETTER (R292). -/
  | reset
  deriving DecidableEq, Repr

/-- One entry of the schedule the agents have chosen (the model's own; R72, R281; log entry 3). -/
inductive Turn where
  /-- PLAYER or TIME takes its step. -/
  | own
  /-- READER goes on with its outstanding DRAIN (R238). -/
  | reader
  /-- An agent offers its step. -/
  | offer (o : Offer)
  deriving DecidableEq, Repr

/-- The whole state: the spec's registers and arrays, and after them the model's own seven fields. -/
structure State where
  /-- R21 -/
  phase : Phase
  /-- R22 -/
  pendingSpace : Bool
  /-- R23 -/
  boundary : BitVec 10
  /-- R24 -/
  seqLen : BitVec 10
  /-- R25, R62: the written entries of `seq_mem`, (index, 16-bit word). -/
  seqMem : List (Nat × BitVec 16)
  /-- R26 -/
  seqOvf : Bool
  /-- R28 -/
  pState : PState
  /-- R29 -/
  rdIdx : BitVec 10
  /-- R30 -/
  shreg : BitVec 16
  /-- R31 -/
  bitCnt : BitVec 5
  /-- R32 -/
  curElem : Elem
  /-- R33 -/
  curGap : Bool
  /-- R34 -/
  waitCnt : BitVec 2
  /-- R35 -/
  led : Bool
  /-- R36, R63: the written entries of `fifo_mem`. -/
  fifoMem : List Host.Cell
  /-- R37 -/
  wrPtr : BitVec 9
  /-- R37 -/
  rdPtr : BitVec 9
  /-- R38 -/
  count : BitVec 10
  /-- R39 -/
  trOvf : Bool
  /-- R39 -/
  dropCnt : BitVec 16
  /-- MODEL: what the agents do next (log entry 3). -/
  turns : List Turn
  /-- MODEL: symbols a test bench still hands to a FIFO that stands alone (V40 to V45; log entry 20). Empty in the block. -/
  bench : List Byte
  /-- MODEL: symbols the reader's DRAIN still wants (R238; log entry 5). -/
  drainLeft : Nat
  /-- MODEL: the observer's clock, TICKs since the last END was accepted (R15; log entry 4). -/
  now : Nat
  /-- MODEL: the output trace, oldest event first (R15; log entry 4). -/
  trace : List Stamped
  /-- MODEL: the symbols the reader has popped, oldest first (results of R236; log entry 4). -/
  received : List Byte
  /-- MODEL: the result of the last LOOKUP (R121; log entry 4). -/
  lookupOut : Option (BitVec 16)
  deriving DecidableEq, Repr

/-- The reasons a step stops with a fault. The block itself has none (R260); both are accesses to a word that does not
exist, and neither is reachable (R50 items 4 and 5). -/
inductive Fault where
  /-- A read of a `seq_mem` or `fifo_mem` entry that nothing has written since RESET (R25, R36, D25). Raised by the
  player's fetch and by POP and DRAIN. Safe: the spec leaves the value open and lets a model fault. -/
  | unwrittenEntry
  /-- A read of `seq_mem` at an index above 511 (R62). Raised by the player's fetch. Safe: no such word exists. -/
  | noSuchIndex
  deriving DecidableEq, Repr

/-- The reasons a step is refused. -/
inductive Refusal where
  /-- An instruction without a meaning. Raised by no arm of `exec`: every instruction has its meaning. Safe. -/
  | notModelled (mnemonic : String)
  /-- A test bench hands the FIFO a SYM8 byte that is none of the four symbols (R97, R100; log entry 19). Raised by `step`
  when it decodes. Safe: the block never produces one. -/
  | noSuchEncoding
  deriving DecidableEq, Repr

/-- The state after RESET (R53), with nothing written in either memory (log entry 2) and an empty environment and
observer (log entries 3, 4, 5, 20). -/
def State.reset : State where
  phase := .idle
  pendingSpace := true
  boundary := 0
  seqLen := 0
  seqMem := []
  seqOvf := false
  pState := .pIdle
  rdIdx := 0
  shreg := 0
  bitCnt := 0
  curElem := .dot
  curGap := false
  waitCnt := 0
  led := false
  fifoMem := []
  wrPtr := 0
  rdPtr := 0
  count := 0
  trOvf := false
  dropCnt := 0
  turns := []
  bench := []
  drainLeft := 0
  now := 0
  trace := []
  received := []
  lookupOut := none

end Sys2Proof.Machine
end

