-- ==== Sys2Proof/Machine/Ops.lean ====
section
/-! DEFINITION. The named operations over memory and registers: `MemRead`, `MemWrite`, `emit`, `hold`, `raise`
(spec/00_scope.md R14), APPEND and POP (spec/43_transcript_fifo.md), the builder's and the player's sub-operations. -/

namespace Sys2Proof.Machine

/-! ## Memories: (index, word) lists, indices strictly rising, a listed entry is a written one -/

/-- The word at index `a`, or none where nothing has written it (R25, R36; log entry 2). -/
def memRead {w : Nat} : List (Nat × BitVec w) → Nat → Option (BitVec w)
  | [], _ => none
  | (b, x) :: m, a => if a = b then some x else memRead m a

/-- Write `v` at index `a`, keeping the indices strictly rising (R62, R63). -/
def memWrite {w : Nat} : List (Nat × BitVec w) → Nat → BitVec w → List (Nat × BitVec w)
  | [], a, v => [(a, v)]
  | (b, x) :: m, a, v =>
    if a < b then (a, v) :: (b, x) :: m
    else if a = b then (a, v) :: m
    else (b, x) :: memWrite m a v

/-- The indices of `m` are strictly rising, all at least `lo` and below `cap`. -/
def Memory.rising {w : Nat} (cap : Nat) : Nat → List (Nat × BitVec w) → Bool
  | _, [] => true
  | lo, (a, _) :: m => lo ≤ a && a < cap && Memory.rising cap (a + 1) m

/-- The canonical form of a memory of `cap` words: indices strictly rising and below `cap`. An unlisted index reads as
no value, so no entry can equal what an unlisted index reads as. -/
def Memory.wf {w : Nat} (cap : Nat) (m : List (Nat × BitVec w)) : Bool := Memory.rising cap 0 m

/-! ## Events, holds, conditions (R14) -/

/-- Record an event in the output trace at the current time (R15). -/
def emit (e : Event) (s : State) : State := { s with trace := s.trace ++ [⟨s.now, e⟩] }

/-- `emit On`: `led <- 1` and the event (R14, R35). -/
def emitOn (s : State) : State := emit .on { s with led := true }

/-- `emit Off`: `led <- 0` and the event (R14, R35). -/
def emitOff (s : State) : State := emit .off { s with led := false }

/-- `hold k`: load `wait_cnt` (R14, R34). -/
def hold (k : BitVec 2) (s : State) : State := { s with waitCnt := k }

/-- The conditions E0 to E3 of the error taxonomy (R260). -/
inductive Condition where
  | undefinedCharacter
  | transcriptOverflow
  | sequenceOverflow
  | inputTransferFailure
  deriving DecidableEq, Repr

/-- `raise X`, the one way a condition is taken: it writes the registers of R260's table and nothing else, and the step
goes on (R14, R268). E0 and E3 record nothing (R261, R263). There is no return from it (R269). -/
def raise (x : Condition) (s : State) : State :=
  match x with
  | .undefinedCharacter => s
  | .transcriptOverflow => { s with trOvf := true, dropCnt := satIncr s.dropCnt }
  | .sequenceOverflow => { s with seqOvf := true }
  | .inputTransferFailure => s

/-! ## Transcript FIFO -/

/-- Full: `count = 512` (R231; `count` never exceeds 512, R38; log entry 10). -/
def fifoFull (s : State) : Bool := 512 ≤ s.count.toNat

/-- Empty: `count = 0` (R231). -/
def fifoEmpty (s : State) : Bool := s.count == 0

/-- The storing half of APPEND (R233): write at `wr_ptr`, advance it modulo 512, count up. -/
def fifoStore (sym : Symbol) (s : State) : State :=
  { s with
    fifoMem := memWrite s.fifoMem s.wrPtr.toNat (symbolByte sym)
    wrPtr := s.wrPtr + 1
    count := s.count + 1 }

/-- What APPEND reports to its caller (R230, R233, R234). -/
inductive AppendResult where
  | accepted
  | overflow
  deriving DecidableEq, Repr

/-- The result APPEND reports: `Overflow` exactly when the buffer is full. -/
def appendResult (s : State) : AppendResult := if fifoFull s then .overflow else .accepted

/-- APPEND, whichever of R233 and R234 applies, as `emit Append(s)`: the event is recorded either way (R14, R208). -/
def emitAppend (sym : Symbol) (s : State) : State :=
  let t := emit (.append sym) s
  match appendResult s with
  | .accepted => fifoStore sym t
  | .overflow => raise .transcriptOverflow t

/-- The removing half of POP (R236): the symbol `sym` goes to the reader, `rd_ptr` advances modulo 512, count down. -/
def fifoTake (sym : Byte) (s : State) : State :=
  { s with
    rdPtr := s.rdPtr + 1
    count := s.count - 1
    received := s.received ++ [sym] }

/-! ## Sequence builder -/

/-- Full sequence: `seq_len = 512` (R167; `seq_len` never exceeds 512, R24; log entry 10). -/
def seqFull (s : State) : Bool := 512 ≤ s.seqLen.toNat

/-- `tx_ready`: `phase` is IDLE or BUILD (R41, R162). -/
def txReady (s : State) : Bool := s.phase != .play

/-- WRITE_START (R163). -/
def beginWrite (s : State) : State :=
  { s with seqLen := 0, boundary := 0, pendingSpace := true, phase := .build }

/-- LETTER (R164). -/
def letterOp (k : Letter) (s : State) : State :=
  if seqFull s then raise .sequenceOverflow s
  else
    { s with
      seqMem := memWrite s.seqMem s.seqLen.toNat (romWord k)
      seqLen := s.seqLen + 1
      pendingSpace := false
      boundary := s.seqLen + 1 }

/-- SPACE (R165). -/
def spaceOp (s : State) : State :=
  if s.pendingSpace then s
  else if seqFull s then raise .sequenceOverflow s
  else
    { s with
      seqMem := memWrite s.seqMem s.seqLen.toNat gapCode
      seqLen := s.seqLen + 1
      pendingSpace := true }

/-- IGNORE (R166): E0, which records nothing. -/
def ignoreOp (s : State) : State := raise .undefinedCharacter s

/-- PLAY_START (R193). -/
def beginPlay (s : State) : State := { s with rdIdx := 0, pState := .pFetch }

/-- END (R168): truncate, then complete an empty write at once or start the play. The observer's clock starts here (R15). -/
def endOp (s : State) : State :=
  let t := { s with seqLen := s.boundary, now := 0 }
  if s.boundary = 0 then emit .done { t with phase := .idle }
  else beginPlay { t with phase := .play }

/-- The operation of a BYTE word's class (R169). -/
def byteOp : TextClass → State → State
  | .letter k => letterOp k
  | .space => spaceOp
  | .other => ignoreOp

/-- A text-port transaction (R41): while `tx_ready = 0` the writer waits and nothing happens (R162); otherwise WRITE_START
comes first if `phase` is IDLE (R163) and the word's own operation follows in the same step. -/
def textTransaction (op : State → State) (s : State) : State :=
  match s.phase with
  | .idle => op (beginWrite s)
  | .build => op s
  | .play => s

/-! ## Player -/

/-- The code at `rd_idx`: `MemRead(seq_mem:rd_idx, 16)` (R194, R195). -/
def currentCode (s : State) : Except Fault Code :=
  if 512 ≤ s.rdIdx.toNat then .error .noSuchIndex
  else
    match memRead s.seqMem s.rdIdx.toNat with
    | some c => .ok c
    | none => .error .unwrittenEntry

/-- FETCH of a word-gap code (R194). -/
def fetchGapOp (s : State) : State :=
  { hold wordGapUnits (emitAppend .space { s with curGap := true }) with pState := .pWgap }

/-- FETCH of a letter code (R195). -/
def fetchLetterOp (c : Code) (s : State) : State :=
  { s with curGap := false, shreg := c, bitCnt := 0, pState := .pWalk }

/-- Start of an element (R197, R198): On, Append, remember the element, hold, P_ON, in this order. -/
def startElement (e : Elem) (sym : Symbol) (k : BitVec 2) (s : State) : State :=
  { hold k { emitAppend sym (emitOn s) with curElem := e } with pState := .pOn }

/-- Advance over `n` bit positions (R199, R202). -/
def advanceBits (n : Nat) (s : State) : State :=
  { s with shreg := shl16 s.shreg n, bitCnt := s.bitCnt + BitVec.ofNat 5 n, pState := .pWalk }

/-- The player is at window `w`: `P_WALK`, bits remain, and the window is `w` (R196 to R199). -/
def atWindow (w : BitVec 3) (s : State) : Bool :=
  s.pState == .pWalk && s.bitCnt.toNat < 16 && window s.shreg == w

/-- Expiry of `P_ON` (R201). -/
def onExpiryOp (s : State) : State := { hold elemGapUnits (emitOff s) with pState := .pOff }

/-- Expiry of `P_OFF` (R202). -/
def offExpiryOp (s : State) : State := advanceBits (advance s.curElem) s

/-- The code is finished: end of the walk (R196), expiry of `P_WGAP` (R203). -/
def toNextOp (s : State) : State := { s with pState := .pNext }

/-- Fetch the following code (R205, R206). -/
def nextCodeOp (s : State) : State := { s with rdIdx := s.rdIdx + 1, pState := .pFetch }

/-- NEXT after a letter code that is not the last (R204). -/
def nextLetterOp (s : State) : State :=
  { hold letterGapUnits (emitAppend .space s) with pState := .pLgap }

/-- NEXT after the last code (R207): newline, then the write is complete. -/
def nextLastOp (s : State) : State :=
  emit .done { emitAppend .newline s with pState := .pIdle, phase := .idle }

/-- `rd_idx = seq_len − 1`: the current code is the last (R204, R207). -/
def lastCode (s : State) : Bool := s.rdIdx == s.seqLen - 1

/-- The expiry rule of the holding state (R200); no rule in any other state. -/
def expiryOp (s : State) : State :=
  match s.pState with
  | .pOn => onExpiryOp s
  | .pOff => offExpiryOp s
  | .pWgap => toNextOp s
  | .pLgap => nextCodeOp s
  | .pIdle | .pFetch | .pWalk | .pNext => s

/-- TICK can occur: in a holding state, or while nothing plays and the player is at no instantaneous state (R192, R200). -/
def tickEnabled (s : State) : Bool :=
  s.pState.holding || (s.phase != .play && !s.pState.instantaneous)

/-- One base unit passes (R200): the observer's clock counts it, and a hold counts down or expires. -/
def tickOp (s : State) : State :=
  let t := { s with now := s.now + 1 }
  if s.pState.holding then
    if 1 < s.waitCnt.toNat then { t with waitCnt := s.waitCnt - 1 }
    else expiryOp { t with waitCnt := 0 }
  else t

/-! ## Reset -/

/-- RESET (R292): every register at its reset value, both memories' contents unspecified (log entry 2); an `Off` is
recorded if `led` was 1; the environment and the observer stay as they are. -/
def resetOp (s : State) : State :=
  { State.reset with
    turns := s.turns
    bench := s.bench
    drainLeft := s.drainLeft
    now := s.now
    trace := if s.led then s.trace ++ [⟨s.now, .off⟩] else s.trace
    received := s.received
    lookupOut := s.lookupOut }

/-! ## Performing an operation under its condition -/

/-- Perform `op` where its rule's condition holds; an operation that is not enabled does not happen and changes nothing
(R11, R281; log entry 6). -/
def whenEnabled (enabled : Bool) (op : State → State) (s : State) : Host.Outcome State Fault Refusal :=
  .next (if enabled then op s else s)

/-- Perform a FETCH (R194, R195): in `P_FETCH`, read the code at `rd_idx` and perform `op` on it if it is one that `sel`
selects. -/
def whenFetched (sel : Code → Bool) (op : Code → State → State) (s : State) : Host.Outcome State Fault Refusal :=
  match s.pState with
  | .pFetch =>
    match currentCode s with
    | .ok c => .next (if sel c then op c s else s)
    | .error f => .fault f
  | .pIdle | .pWalk | .pOn | .pOff | .pWgap | .pNext | .pLgap => .next s

/-- POP (R236) where `count > 0`; with an empty buffer no POP can happen and the reader is told so (R237). `k` is what
the reader does after it has its symbol. -/
def whenReadable (k : State → State) (s : State) : Host.Outcome State Fault Refusal :=
  match memRead s.fifoMem s.rdPtr.toNat with
  | some b => .next (k (fifoTake b s))
  | none => .fault .unwrittenEntry

end Sys2Proof.Machine
end

