-- ==== Sys2Proof/Machine/Codes.lean ====
section
/-! DEFINITION. The fetch of a signal code by the player: the SC16 rows and FETCH_LETTER (spec/42_player.md R194, R195). -/

namespace Sys2Proof.Machine

/-- GAP (R194): the code at `rd_idx` is 0x0000. -/
def execGap (s : State) : Host.Outcome State Fault Refusal :=
  whenFetched (fun c => c == gapCode) (fun _ => fetchGapOp) s

/-- CODE.A (R124, fetched by R195): the code at `rd_idx` is 0xB800. -/
def execCodeA (s : State) : Host.Outcome State Fault Refusal :=
  whenFetched (fun c => c == 0xB800) fetchLetterOp s

/-- CODE.B (R125, fetched by R195): the code at `rd_idx` is 0xEA80. -/
def execCodeB (s : State) : Host.Outcome State Fault Refusal :=
  whenFetched (fun c => c == 0xEA80) fetchLetterOp s

/-- CODE.C (R126, fetched by R195): the code at `rd_idx` is 0xEBA0. -/
def execCodeC (s : State) : Host.Outcome State Fault Refusal :=
  whenFetched (fun c => c == 0xEBA0) fetchLetterOp s

/-- CODE.D (R127, fetched by R195): the code at `rd_idx` is 0xEA00. -/
def execCodeD (s : State) : Host.Outcome State Fault Refusal :=
  whenFetched (fun c => c == 0xEA00) fetchLetterOp s

/-- CODE.E (R128, fetched by R195): the code at `rd_idx` is 0x8000. -/
def execCodeE (s : State) : Host.Outcome State Fault Refusal :=
  whenFetched (fun c => c == 0x8000) fetchLetterOp s

/-- CODE.F (R129, fetched by R195): the code at `rd_idx` is 0xAE80. -/
def execCodeF (s : State) : Host.Outcome State Fault Refusal :=
  whenFetched (fun c => c == 0xAE80) fetchLetterOp s

/-- CODE.G (R130, fetched by R195): the code at `rd_idx` is 0xEE80. -/
def execCodeG (s : State) : Host.Outcome State Fault Refusal :=
  whenFetched (fun c => c == 0xEE80) fetchLetterOp s

/-- CODE.H (R131, fetched by R195): the code at `rd_idx` is 0xAA00. -/
def execCodeH (s : State) : Host.Outcome State Fault Refusal :=
  whenFetched (fun c => c == 0xAA00) fetchLetterOp s

/-- CODE.I (R132, fetched by R195): the code at `rd_idx` is 0xA000. -/
def execCodeI (s : State) : Host.Outcome State Fault Refusal :=
  whenFetched (fun c => c == 0xA000) fetchLetterOp s

/-- CODE.J (R133, fetched by R195): the code at `rd_idx` is 0xBBB8. -/
def execCodeJ (s : State) : Host.Outcome State Fault Refusal :=
  whenFetched (fun c => c == 0xBBB8) fetchLetterOp s

/-- CODE.K (R134, fetched by R195): the code at `rd_idx` is 0xEB80. -/
def execCodeK (s : State) : Host.Outcome State Fault Refusal :=
  whenFetched (fun c => c == 0xEB80) fetchLetterOp s

/-- CODE.L (R135, fetched by R195): the code at `rd_idx` is 0xBA80. -/
def execCodeL (s : State) : Host.Outcome State Fault Refusal :=
  whenFetched (fun c => c == 0xBA80) fetchLetterOp s

/-- CODE.M (R136, fetched by R195): the code at `rd_idx` is 0xEE00. -/
def execCodeM (s : State) : Host.Outcome State Fault Refusal :=
  whenFetched (fun c => c == 0xEE00) fetchLetterOp s

/-- CODE.N (R137, fetched by R195): the code at `rd_idx` is 0xE800. -/
def execCodeN (s : State) : Host.Outcome State Fault Refusal :=
  whenFetched (fun c => c == 0xE800) fetchLetterOp s

/-- CODE.O (R138, fetched by R195): the code at `rd_idx` is 0xEEE0. -/
def execCodeO (s : State) : Host.Outcome State Fault Refusal :=
  whenFetched (fun c => c == 0xEEE0) fetchLetterOp s

/-- CODE.P (R139, fetched by R195): the code at `rd_idx` is 0xBBA0. -/
def execCodeP (s : State) : Host.Outcome State Fault Refusal :=
  whenFetched (fun c => c == 0xBBA0) fetchLetterOp s

/-- CODE.Q (R140, fetched by R195): the code at `rd_idx` is 0xEEB8. -/
def execCodeQ (s : State) : Host.Outcome State Fault Refusal :=
  whenFetched (fun c => c == 0xEEB8) fetchLetterOp s

/-- CODE.R (R141, fetched by R195): the code at `rd_idx` is 0xBA00. -/
def execCodeR (s : State) : Host.Outcome State Fault Refusal :=
  whenFetched (fun c => c == 0xBA00) fetchLetterOp s

/-- CODE.S (R142, fetched by R195): the code at `rd_idx` is 0xA800. -/
def execCodeS (s : State) : Host.Outcome State Fault Refusal :=
  whenFetched (fun c => c == 0xA800) fetchLetterOp s

/-- CODE.T (R143, fetched by R195): the code at `rd_idx` is 0xE000. -/
def execCodeT (s : State) : Host.Outcome State Fault Refusal :=
  whenFetched (fun c => c == 0xE000) fetchLetterOp s

/-- CODE.U (R144, fetched by R195): the code at `rd_idx` is 0xAE00. -/
def execCodeU (s : State) : Host.Outcome State Fault Refusal :=
  whenFetched (fun c => c == 0xAE00) fetchLetterOp s

/-- CODE.V (R145, fetched by R195): the code at `rd_idx` is 0xAB80. -/
def execCodeV (s : State) : Host.Outcome State Fault Refusal :=
  whenFetched (fun c => c == 0xAB80) fetchLetterOp s

/-- CODE.W (R146, fetched by R195): the code at `rd_idx` is 0xBB80. -/
def execCodeW (s : State) : Host.Outcome State Fault Refusal :=
  whenFetched (fun c => c == 0xBB80) fetchLetterOp s

/-- CODE.X (R147, fetched by R195): the code at `rd_idx` is 0xEAE0. -/
def execCodeX (s : State) : Host.Outcome State Fault Refusal :=
  whenFetched (fun c => c == 0xEAE0) fetchLetterOp s

/-- CODE.Y (R148, fetched by R195): the code at `rd_idx` is 0xEBB8. -/
def execCodeY (s : State) : Host.Outcome State Fault Refusal :=
  whenFetched (fun c => c == 0xEBB8) fetchLetterOp s

/-- CODE.Z (R149, fetched by R195): the code at `rd_idx` is 0xEEA0. -/
def execCodeZ (s : State) : Host.Outcome State Fault Refusal :=
  whenFetched (fun c => c == 0xEEA0) fetchLetterOp s

/-- CODE.OTHER (R212, fetched by R195): the code at `rd_idx` is `c`, not 0x0000. -/
def execCodeOther (c : Code) (s : State) : Host.Outcome State Fault Refusal :=
  whenFetched (fun d => d == c && c != gapCode) fetchLetterOp s

/-- FETCH_LETTER (R195): the code at `rd_idx` is not 0x0000, whatever it is. -/
def execFetchLetter (s : State) : Host.Outcome State Fault Refusal :=
  whenFetched (fun c => c != gapCode) fetchLetterOp s

end Sys2Proof.Machine
end

