-- ==== Sys2Proof/Machine/Fifo.lean ====
section
/-! DEFINITION. The transcript FIFO (spec/43_transcript_fifo.md): the SYM8 rows, APPEND, POP and DRAIN. -/

namespace Sys2Proof.Machine

/-- SYM.DOT (R97): the FIFO is given the symbol . (R233, R234). -/
def execSymDot (s : State) : Host.Outcome State Fault Refusal :=
  .next (emitAppend .dot s)

/-- SYM.DASH (R97): the FIFO is given the symbol - (R233, R234). -/
def execSymDash (s : State) : Host.Outcome State Fault Refusal :=
  .next (emitAppend .dash s)

/-- SYM.SPACE (R97): the FIFO is given the symbol space (R233, R234). -/
def execSymSpace (s : State) : Host.Outcome State Fault Refusal :=
  .next (emitAppend .space s)

/-- SYM.NEWLINE (R97): the FIFO is given the symbol newline (R233, R234). -/
def execSymNewline (s : State) : Host.Outcome State Fault Refusal :=
  .next (emitAppend .newline s)

/-- APPEND, accepted (R233); condition: `count < 512`. -/
def execAppend (sym : Symbol) (s : State) : Host.Outcome State Fault Refusal :=
  whenEnabled (!fifoFull s) (fun t => fifoStore sym (emit (.append sym) t)) s

/-- APPEND, dropped (R234); condition: `count = 512`. -/
def execAppendDrop (sym : Symbol) (s : State) : Host.Outcome State Fault Refusal :=
  whenEnabled (fifoFull s) (fun t => raise .transcriptOverflow (emit (.append sym) t)) s

/-- POP (R236); with an empty buffer no POP can happen (R237). -/
def execPop (s : State) : Host.Outcome State Fault Refusal :=
  if fifoEmpty s then .next s else whenReadable id s

/-- DRAIN(max) (R238): the test of its loop, one POP, and `max − 1` symbols still wanted. The POPs are separate steps: the
reader's later turns go on with the rest, and steps of other agents may fall between (log entry 5). -/
def execDrain (max : Nat) (s : State) : Host.Outcome State Fault Refusal :=
  if max = 0 ∨ fifoEmpty s then .next { s with drainLeft := 0 }
  else whenReadable (fun t => { t with drainLeft := max - 1 }) s

end Sys2Proof.Machine
end

