-- ==== Sys2Proof/Machine/LettersLower.lean ====
section
/-! DEFINITION. LETTER (spec/41_encoder.md R164) for the lower-case bytes, each as the text-port transaction of the BYTE word
that carries it. -/

namespace Sys2Proof.Machine

/-- LETTER.a (R164): byte 0x61, ROM index 0. -/
def execLowerA (s : State) : Host.Outcome State Fault Refusal :=
  .next (textTransaction (letterOp 0) s)

/-- LETTER.b (R164): byte 0x62, ROM index 1. -/
def execLowerB (s : State) : Host.Outcome State Fault Refusal :=
  .next (textTransaction (letterOp 1) s)

/-- LETTER.c (R164): byte 0x63, ROM index 2. -/
def execLowerC (s : State) : Host.Outcome State Fault Refusal :=
  .next (textTransaction (letterOp 2) s)

/-- LETTER.d (R164): byte 0x64, ROM index 3. -/
def execLowerD (s : State) : Host.Outcome State Fault Refusal :=
  .next (textTransaction (letterOp 3) s)

/-- LETTER.e (R164): byte 0x65, ROM index 4. -/
def execLowerE (s : State) : Host.Outcome State Fault Refusal :=
  .next (textTransaction (letterOp 4) s)

/-- LETTER.f (R164): byte 0x66, ROM index 5. -/
def execLowerF (s : State) : Host.Outcome State Fault Refusal :=
  .next (textTransaction (letterOp 5) s)

/-- LETTER.g (R164): byte 0x67, ROM index 6. -/
def execLowerG (s : State) : Host.Outcome State Fault Refusal :=
  .next (textTransaction (letterOp 6) s)

/-- LETTER.h (R164): byte 0x68, ROM index 7. -/
def execLowerH (s : State) : Host.Outcome State Fault Refusal :=
  .next (textTransaction (letterOp 7) s)

/-- LETTER.i (R164): byte 0x69, ROM index 8. -/
def execLowerI (s : State) : Host.Outcome State Fault Refusal :=
  .next (textTransaction (letterOp 8) s)

/-- LETTER.j (R164): byte 0x6A, ROM index 9. -/
def execLowerJ (s : State) : Host.Outcome State Fault Refusal :=
  .next (textTransaction (letterOp 9) s)

/-- LETTER.k (R164): byte 0x6B, ROM index 10. -/
def execLowerK (s : State) : Host.Outcome State Fault Refusal :=
  .next (textTransaction (letterOp 10) s)

/-- LETTER.l (R164): byte 0x6C, ROM index 11. -/
def execLowerL (s : State) : Host.Outcome State Fault Refusal :=
  .next (textTransaction (letterOp 11) s)

/-- LETTER.m (R164): byte 0x6D, ROM index 12. -/
def execLowerM (s : State) : Host.Outcome State Fault Refusal :=
  .next (textTransaction (letterOp 12) s)

/-- LETTER.n (R164): byte 0x6E, ROM index 13. -/
def execLowerN (s : State) : Host.Outcome State Fault Refusal :=
  .next (textTransaction (letterOp 13) s)

/-- LETTER.o (R164): byte 0x6F, ROM index 14. -/
def execLowerO (s : State) : Host.Outcome State Fault Refusal :=
  .next (textTransaction (letterOp 14) s)

/-- LETTER.p (R164): byte 0x70, ROM index 15. -/
def execLowerP (s : State) : Host.Outcome State Fault Refusal :=
  .next (textTransaction (letterOp 15) s)

/-- LETTER.q (R164): byte 0x71, ROM index 16. -/
def execLowerQ (s : State) : Host.Outcome State Fault Refusal :=
  .next (textTransaction (letterOp 16) s)

/-- LETTER.r (R164): byte 0x72, ROM index 17. -/
def execLowerR (s : State) : Host.Outcome State Fault Refusal :=
  .next (textTransaction (letterOp 17) s)

/-- LETTER.s (R164): byte 0x73, ROM index 18. -/
def execLowerS (s : State) : Host.Outcome State Fault Refusal :=
  .next (textTransaction (letterOp 18) s)

/-- LETTER.t (R164): byte 0x74, ROM index 19. -/
def execLowerT (s : State) : Host.Outcome State Fault Refusal :=
  .next (textTransaction (letterOp 19) s)

/-- LETTER.u (R164): byte 0x75, ROM index 20. -/
def execLowerU (s : State) : Host.Outcome State Fault Refusal :=
  .next (textTransaction (letterOp 20) s)

/-- LETTER.v (R164): byte 0x76, ROM index 21. -/
def execLowerV (s : State) : Host.Outcome State Fault Refusal :=
  .next (textTransaction (letterOp 21) s)

/-- LETTER.w (R164): byte 0x77, ROM index 22. -/
def execLowerW (s : State) : Host.Outcome State Fault Refusal :=
  .next (textTransaction (letterOp 22) s)

/-- LETTER.x (R164): byte 0x78, ROM index 23. -/
def execLowerX (s : State) : Host.Outcome State Fault Refusal :=
  .next (textTransaction (letterOp 23) s)

/-- LETTER.y (R164): byte 0x79, ROM index 24. -/
def execLowerY (s : State) : Host.Outcome State Fault Refusal :=
  .next (textTransaction (letterOp 24) s)

/-- LETTER.z (R164): byte 0x7A, ROM index 25. -/
def execLowerZ (s : State) : Host.Outcome State Fault Refusal :=
  .next (textTransaction (letterOp 25) s)

end Sys2Proof.Machine
end

