-- ==== Sys2Proof/Machine/LettersUpper.lean ====
section
/-! DEFINITION. LETTER (spec/41_encoder.md R164) for the upper-case bytes, each as the text-port transaction of the BYTE word
that carries it. -/

namespace Sys2Proof.Machine

/-- LETTER.A (R164): byte 0x41, ROM index 0. -/
def execUpperA (s : State) : Host.Outcome State Fault Refusal :=
  .next (textTransaction (letterOp 0) s)

/-- LETTER.B (R164): byte 0x42, ROM index 1. -/
def execUpperB (s : State) : Host.Outcome State Fault Refusal :=
  .next (textTransaction (letterOp 1) s)

/-- LETTER.C (R164): byte 0x43, ROM index 2. -/
def execUpperC (s : State) : Host.Outcome State Fault Refusal :=
  .next (textTransaction (letterOp 2) s)

/-- LETTER.D (R164): byte 0x44, ROM index 3. -/
def execUpperD (s : State) : Host.Outcome State Fault Refusal :=
  .next (textTransaction (letterOp 3) s)

/-- LETTER.E (R164): byte 0x45, ROM index 4. -/
def execUpperE (s : State) : Host.Outcome State Fault Refusal :=
  .next (textTransaction (letterOp 4) s)

/-- LETTER.F (R164): byte 0x46, ROM index 5. -/
def execUpperF (s : State) : Host.Outcome State Fault Refusal :=
  .next (textTransaction (letterOp 5) s)

/-- LETTER.G (R164): byte 0x47, ROM index 6. -/
def execUpperG (s : State) : Host.Outcome State Fault Refusal :=
  .next (textTransaction (letterOp 6) s)

/-- LETTER.H (R164): byte 0x48, ROM index 7. -/
def execUpperH (s : State) : Host.Outcome State Fault Refusal :=
  .next (textTransaction (letterOp 7) s)

/-- LETTER.I (R164): byte 0x49, ROM index 8. -/
def execUpperI (s : State) : Host.Outcome State Fault Refusal :=
  .next (textTransaction (letterOp 8) s)

/-- LETTER.J (R164): byte 0x4A, ROM index 9. -/
def execUpperJ (s : State) : Host.Outcome State Fault Refusal :=
  .next (textTransaction (letterOp 9) s)

/-- LETTER.K (R164): byte 0x4B, ROM index 10. -/
def execUpperK (s : State) : Host.Outcome State Fault Refusal :=
  .next (textTransaction (letterOp 10) s)

/-- LETTER.L (R164): byte 0x4C, ROM index 11. -/
def execUpperL (s : State) : Host.Outcome State Fault Refusal :=
  .next (textTransaction (letterOp 11) s)

/-- LETTER.M (R164): byte 0x4D, ROM index 12. -/
def execUpperM (s : State) : Host.Outcome State Fault Refusal :=
  .next (textTransaction (letterOp 12) s)

/-- LETTER.N (R164): byte 0x4E, ROM index 13. -/
def execUpperN (s : State) : Host.Outcome State Fault Refusal :=
  .next (textTransaction (letterOp 13) s)

/-- LETTER.O (R164): byte 0x4F, ROM index 14. -/
def execUpperO (s : State) : Host.Outcome State Fault Refusal :=
  .next (textTransaction (letterOp 14) s)

/-- LETTER.P (R164): byte 0x50, ROM index 15. -/
def execUpperP (s : State) : Host.Outcome State Fault Refusal :=
  .next (textTransaction (letterOp 15) s)

/-- LETTER.Q (R164): byte 0x51, ROM index 16. -/
def execUpperQ (s : State) : Host.Outcome State Fault Refusal :=
  .next (textTransaction (letterOp 16) s)

/-- LETTER.R (R164): byte 0x52, ROM index 17. -/
def execUpperR (s : State) : Host.Outcome State Fault Refusal :=
  .next (textTransaction (letterOp 17) s)

/-- LETTER.S (R164): byte 0x53, ROM index 18. -/
def execUpperS (s : State) : Host.Outcome State Fault Refusal :=
  .next (textTransaction (letterOp 18) s)

/-- LETTER.T (R164): byte 0x54, ROM index 19. -/
def execUpperT (s : State) : Host.Outcome State Fault Refusal :=
  .next (textTransaction (letterOp 19) s)

/-- LETTER.U (R164): byte 0x55, ROM index 20. -/
def execUpperU (s : State) : Host.Outcome State Fault Refusal :=
  .next (textTransaction (letterOp 20) s)

/-- LETTER.V (R164): byte 0x56, ROM index 21. -/
def execUpperV (s : State) : Host.Outcome State Fault Refusal :=
  .next (textTransaction (letterOp 21) s)

/-- LETTER.W (R164): byte 0x57, ROM index 22. -/
def execUpperW (s : State) : Host.Outcome State Fault Refusal :=
  .next (textTransaction (letterOp 22) s)

/-- LETTER.X (R164): byte 0x58, ROM index 23. -/
def execUpperX (s : State) : Host.Outcome State Fault Refusal :=
  .next (textTransaction (letterOp 23) s)

/-- LETTER.Y (R164): byte 0x59, ROM index 24. -/
def execUpperY (s : State) : Host.Outcome State Fault Refusal :=
  .next (textTransaction (letterOp 24) s)

/-- LETTER.Z (R164): byte 0x5A, ROM index 25. -/
def execUpperZ (s : State) : Host.Outcome State Fault Refusal :=
  .next (textTransaction (letterOp 25) s)

end Sys2Proof.Machine
end

