-- ==== Sys2Proof/Machine/Player.lean ====
section
/-! DEFINITION. The walk, the holds and the sequencing of the player (spec/42_player.md). -/

namespace Sys2Proof.Machine

/-- DASH (R197): window `111`. -/
def execDash (s : State) : Host.Outcome State Fault Refusal :=
  whenEnabled (atWindow 0b111 s) (startElement .dash .dash dashUnits) s

/-- DOT (R198): window `10x`. -/
def execDot10 (x : BitVec 1) (s : State) : Host.Outcome State Fault Refusal :=
  whenEnabled (atWindow (0b10#2 ++ x) s) (startElement .dot .dot dotUnits) s

/-- DOT (R198): window `110`. -/
def execDot110 (s : State) : Host.Outcome State Fault Refusal :=
  whenEnabled (atWindow 0b110 s) (startElement .dot .dot dotUnits) s

/-- PAD (R199): window `0xx`. -/
def execPad (xx : BitVec 2) (s : State) : Host.Outcome State Fault Refusal :=
  whenEnabled (atWindow (0#1 ++ xx) s) (advanceBits 1) s

/-- PLAY_START (R193); condition: END was accepted with `boundary > 0` (`phase` is already PLAY) and the player is idle. -/
def execPlayStart (s : State) : Host.Outcome State Fault Refusal :=
  whenEnabled (s.phase == .play && s.pState == .pIdle && s.boundary != 0) beginPlay s

/-- WALK_END (R196); condition: `P_WALK` and `bit_cnt = 16`. -/
def execWalkEnd (s : State) : Host.Outcome State Fault Refusal :=
  whenEnabled (s.pState == .pWalk && s.bitCnt == 16) toNextOp s

/-- TICK (R200), with the expiry of the state inside it. -/
def execTick (s : State) : Host.Outcome State Fault Refusal :=
  whenEnabled (tickEnabled s) tickOp s

/-- ON_EXPIRY (R201); condition: `P_ON` and its hold has ended. -/
def execOnExpiry (s : State) : Host.Outcome State Fault Refusal :=
  whenEnabled (s.pState == .pOn && s.waitCnt == 0) onExpiryOp s

/-- OFF_EXPIRY (R202); condition: `P_OFF` and its hold has ended. -/
def execOffExpiry (s : State) : Host.Outcome State Fault Refusal :=
  whenEnabled (s.pState == .pOff && s.waitCnt == 0) offExpiryOp s

/-- WGAP_EXPIRY (R203); condition: `P_WGAP` and its hold has ended. -/
def execWgapExpiry (s : State) : Host.Outcome State Fault Refusal :=
  whenEnabled (s.pState == .pWgap && s.waitCnt == 0) toNextOp s

/-- NEXT_LETTER (R204); condition: `P_NEXT`, not the last code, `cur_gap = 0`. -/
def execNextLetter (s : State) : Host.Outcome State Fault Refusal :=
  whenEnabled (s.pState == .pNext && !lastCode s && !s.curGap) nextLetterOp s

/-- NEXT_GAP (R205); condition: `P_NEXT`, not the last code, `cur_gap = 1`. -/
def execNextGap (s : State) : Host.Outcome State Fault Refusal :=
  whenEnabled (s.pState == .pNext && !lastCode s && s.curGap) nextCodeOp s

/-- LGAP_EXPIRY (R206); condition: `P_LGAP` and its hold has ended. -/
def execLgapExpiry (s : State) : Host.Outcome State Fault Refusal :=
  whenEnabled (s.pState == .pLgap && s.waitCnt == 0) nextCodeOp s

/-- NEXT_LAST (R207); condition: `P_NEXT` and the last code. -/
def execNextLast (s : State) : Host.Outcome State Fault Refusal :=
  whenEnabled (s.pState == .pNext && lastCode s) nextLastOp s

end Sys2Proof.Machine
end

