-- ==== Sys2Proof/Machine/System.lean ====
section
/-! DEFINITION. LOOKUP of signal_code_rom (spec/40_signal_code_rom.md) and RESET (spec/70_reset_and_hazards.md). -/

namespace Sys2Proof.Machine

/-- LOOKUP (R121): the ROM word of the index; no side effect on the block. An index outside 0..25 has no value (R122). -/
def execLookup (idx : BitVec 5) (s : State) : Host.Outcome State Fault Refusal :=
  .next { s with lookupOut := romRead idx }

/-- RESET (R292), in any state. -/
def execReset (s : State) : Host.Outcome State Fault Refusal :=
  .next (resetOp s)

end Sys2Proof.Machine
end

