-- ==== Sys2Proof/Machine/TextPort.lean ====
section
/-! DEFINITION. The text-port operations of the sequence builder (spec/41_encoder.md). -/

namespace Sys2Proof.Machine

/-- BYTE (R169): the dispatch on the class of the folded byte, inside one text-port transaction. -/
def execByteWord (data : Byte) (s : State) : Host.Outcome State Fault Refusal :=
  .next (textTransaction (byteOp (classify data)) s)

/-- END (R168), after WRITE_START if it is the first word (R163). `data` is ignored (R91). -/
def execEndWord (_data : Byte) (s : State) : Host.Outcome State Fault Refusal :=
  .next (textTransaction endOp s)

/-- SPACE (R165), as the text-port transaction of the BYTE word that carries byte 0x20. -/
def execSpace (s : State) : Host.Outcome State Fault Refusal :=
  .next (textTransaction spaceOp s)

/-- IGNORE (R166), as the text-port transaction of the BYTE word that carries the byte. -/
def execIgnore (_b : Byte) (s : State) : Host.Outcome State Fault Refusal :=
  .next (textTransaction ignoreOp s)

/-- WRITE_START (R163); condition: `phase = IDLE`. -/
def execWriteStart (s : State) : Host.Outcome State Fault Refusal :=
  whenEnabled (s.phase == .idle) beginWrite s

/-- SEQ_OVERFLOW (R167); condition: a write is being built and the sequence is full. -/
def execSeqOverflow (s : State) : Host.Outcome State Fault Refusal :=
  whenEnabled (s.phase == .build && seqFull s) (raise .sequenceOverflow) s

end Sys2Proof.Machine
end

