-- ==== Sys2Proof/Machine/Dispatch.lean ====
section
/-! DEFINITION. One arm for each instruction: the direct call of its meaning. -/

namespace Sys2Proof.Machine

def exec (i : Instr) (s : State) : Host.Outcome State Fault Refusal :=
  match i with
  | .byteWord data => Sys2Proof.Machine.execByteWord data s
  | .endWord data => Sys2Proof.Machine.execEndWord data s
  | .upperA => Sys2Proof.Machine.execUpperA s
  | .upperB => Sys2Proof.Machine.execUpperB s
  | .upperC => Sys2Proof.Machine.execUpperC s
  | .upperD => Sys2Proof.Machine.execUpperD s
  | .upperE => Sys2Proof.Machine.execUpperE s
  | .upperF => Sys2Proof.Machine.execUpperF s
  | .upperG => Sys2Proof.Machine.execUpperG s
  | .upperH => Sys2Proof.Machine.execUpperH s
  | .upperI => Sys2Proof.Machine.execUpperI s
  | .upperJ => Sys2Proof.Machine.execUpperJ s
  | .upperK => Sys2Proof.Machine.execUpperK s
  | .upperL => Sys2Proof.Machine.execUpperL s
  | .upperM => Sys2Proof.Machine.execUpperM s
  | .upperN => Sys2Proof.Machine.execUpperN s
  | .upperO => Sys2Proof.Machine.execUpperO s
  | .upperP => Sys2Proof.Machine.execUpperP s
  | .upperQ => Sys2Proof.Machine.execUpperQ s
  | .upperR => Sys2Proof.Machine.execUpperR s
  | .upperS => Sys2Proof.Machine.execUpperS s
  | .upperT => Sys2Proof.Machine.execUpperT s
  | .upperU => Sys2Proof.Machine.execUpperU s
  | .upperV => Sys2Proof.Machine.execUpperV s
  | .upperW => Sys2Proof.Machine.execUpperW s
  | .upperX => Sys2Proof.Machine.execUpperX s
  | .upperY => Sys2Proof.Machine.execUpperY s
  | .upperZ => Sys2Proof.Machine.execUpperZ s
  | .lowerA => Sys2Proof.Machine.execLowerA s
  | .lowerB => Sys2Proof.Machine.execLowerB s
  | .lowerC => Sys2Proof.Machine.execLowerC s
  | .lowerD => Sys2Proof.Machine.execLowerD s
  | .lowerE => Sys2Proof.Machine.execLowerE s
  | .lowerF => Sys2Proof.Machine.execLowerF s
  | .lowerG => Sys2Proof.Machine.execLowerG s
  | .lowerH => Sys2Proof.Machine.execLowerH s
  | .lowerI => Sys2Proof.Machine.execLowerI s
  | .lowerJ => Sys2Proof.Machine.execLowerJ s
  | .lowerK => Sys2Proof.Machine.execLowerK s
  | .lowerL => Sys2Proof.Machine.execLowerL s
  | .lowerM => Sys2Proof.Machine.execLowerM s
  | .lowerN => Sys2Proof.Machine.execLowerN s
  | .lowerO => Sys2Proof.Machine.execLowerO s
  | .lowerP => Sys2Proof.Machine.execLowerP s
  | .lowerQ => Sys2Proof.Machine.execLowerQ s
  | .lowerR => Sys2Proof.Machine.execLowerR s
  | .lowerS => Sys2Proof.Machine.execLowerS s
  | .lowerT => Sys2Proof.Machine.execLowerT s
  | .lowerU => Sys2Proof.Machine.execLowerU s
  | .lowerV => Sys2Proof.Machine.execLowerV s
  | .lowerW => Sys2Proof.Machine.execLowerW s
  | .lowerX => Sys2Proof.Machine.execLowerX s
  | .lowerY => Sys2Proof.Machine.execLowerY s
  | .lowerZ => Sys2Proof.Machine.execLowerZ s
  | .space => Sys2Proof.Machine.execSpace s
  | .ignore b => Sys2Proof.Machine.execIgnore b s
  | .gap => Sys2Proof.Machine.execGap s
  | .codeA => Sys2Proof.Machine.execCodeA s
  | .codeB => Sys2Proof.Machine.execCodeB s
  | .codeC => Sys2Proof.Machine.execCodeC s
  | .codeD => Sys2Proof.Machine.execCodeD s
  | .codeE => Sys2Proof.Machine.execCodeE s
  | .codeF => Sys2Proof.Machine.execCodeF s
  | .codeG => Sys2Proof.Machine.execCodeG s
  | .codeH => Sys2Proof.Machine.execCodeH s
  | .codeI => Sys2Proof.Machine.execCodeI s
  | .codeJ => Sys2Proof.Machine.execCodeJ s
  | .codeK => Sys2Proof.Machine.execCodeK s
  | .codeL => Sys2Proof.Machine.execCodeL s
  | .codeM => Sys2Proof.Machine.execCodeM s
  | .codeN => Sys2Proof.Machine.execCodeN s
  | .codeO => Sys2Proof.Machine.execCodeO s
  | .codeP => Sys2Proof.Machine.execCodeP s
  | .codeQ => Sys2Proof.Machine.execCodeQ s
  | .codeR => Sys2Proof.Machine.execCodeR s
  | .codeS => Sys2Proof.Machine.execCodeS s
  | .codeT => Sys2Proof.Machine.execCodeT s
  | .codeU => Sys2Proof.Machine.execCodeU s
  | .codeV => Sys2Proof.Machine.execCodeV s
  | .codeW => Sys2Proof.Machine.execCodeW s
  | .codeX => Sys2Proof.Machine.execCodeX s
  | .codeY => Sys2Proof.Machine.execCodeY s
  | .codeZ => Sys2Proof.Machine.execCodeZ s
  | .codeOther c => Sys2Proof.Machine.execCodeOther c s
  | .dash => Sys2Proof.Machine.execDash s
  | .dot10 x => Sys2Proof.Machine.execDot10 x s
  | .dot110 => Sys2Proof.Machine.execDot110 s
  | .pad xx => Sys2Proof.Machine.execPad xx s
  | .symDot => Sys2Proof.Machine.execSymDot s
  | .symDash => Sys2Proof.Machine.execSymDash s
  | .symSpace => Sys2Proof.Machine.execSymSpace s
  | .symNewline => Sys2Proof.Machine.execSymNewline s
  | .lookup idx => Sys2Proof.Machine.execLookup idx s
  | .writeStart => Sys2Proof.Machine.execWriteStart s
  | .seqOverflow => Sys2Proof.Machine.execSeqOverflow s
  | .playStart => Sys2Proof.Machine.execPlayStart s
  | .fetchLetter => Sys2Proof.Machine.execFetchLetter s
  | .walkEnd => Sys2Proof.Machine.execWalkEnd s
  | .tick => Sys2Proof.Machine.execTick s
  | .onExpiry => Sys2Proof.Machine.execOnExpiry s
  | .offExpiry => Sys2Proof.Machine.execOffExpiry s
  | .wgapExpiry => Sys2Proof.Machine.execWgapExpiry s
  | .nextLetter => Sys2Proof.Machine.execNextLetter s
  | .nextGap => Sys2Proof.Machine.execNextGap s
  | .lgapExpiry => Sys2Proof.Machine.execLgapExpiry s
  | .nextLast => Sys2Proof.Machine.execNextLast s
  | .append sym => Sys2Proof.Machine.execAppend sym s
  | .appendDrop sym => Sys2Proof.Machine.execAppendDrop sym s
  | .pop => Sys2Proof.Machine.execPop s
  | .drain max => Sys2Proof.Machine.execDrain max s
  | .reset => Sys2Proof.Machine.execReset s

end Sys2Proof.Machine
end

