-- ==== Sys2Proof/WellFormed.lean ====
section
/-! DEFINITION. Which terms of Instr are instructions: the operand checks the formats impose. -/

namespace Sys2Proof

open Sys2Proof.Machine (classify rom gapCode TextClass)

/-- The operand checks. IGNORE carries one of the 203 bytes of its class (R92); CODE.OTHER a non-zero code that is no
ROM code (R99); LOOKUP an index 0..25 (R121). Every other operand may have any value of its type; that of APPEND and
APPEND_DROP has the four symbols and nothing else (R97, R233). -/
def Instr.wellFormed : Instr → Bool
  | .ignore b => classify b == TextClass.other
  | .codeOther c => c != gapCode && !rom.contains c
  | .lookup idx => idx.toNat < 26
  | .byteWord _ | .endWord _
  | .upperA | .upperB | .upperC | .upperD | .upperE | .upperF | .upperG | .upperH | .upperI | .upperJ | .upperK | .upperL | .upperM
  | .upperN | .upperO | .upperP | .upperQ | .upperR | .upperS | .upperT | .upperU | .upperV | .upperW | .upperX | .upperY | .upperZ
  | .lowerA | .lowerB | .lowerC | .lowerD | .lowerE | .lowerF | .lowerG | .lowerH | .lowerI | .lowerJ | .lowerK | .lowerL | .lowerM
  | .lowerN | .lowerO | .lowerP | .lowerQ | .lowerR | .lowerS | .lowerT | .lowerU | .lowerV | .lowerW | .lowerX | .lowerY | .lowerZ
  | .space | .gap
  | .codeA | .codeB | .codeC | .codeD | .codeE | .codeF | .codeG | .codeH | .codeI | .codeJ | .codeK | .codeL | .codeM
  | .codeN | .codeO | .codeP | .codeQ | .codeR | .codeS | .codeT | .codeU | .codeV | .codeW | .codeX | .codeY | .codeZ
  | .dash | .dot10 _ | .dot110 | .pad _ | .symDot | .symDash | .symSpace | .symNewline
  | .writeStart | .seqOverflow | .playStart | .fetchLetter | .walkEnd | .tick | .onExpiry | .offExpiry | .wgapExpiry
  | .nextLetter | .nextGap | .lgapExpiry | .nextLast | .append _ | .appendDrop _ | .pop | .drain _ | .reset => true

end Sys2Proof
end

