-- ==== Sys2Proof/Decode.lean ====
section
/-! DEFINITION. The decoder of the encoded inputs (spec/30_encoding.md R90 to R97; spec/opcode_table.json), total
on every value of every format, and the encoder. The tables are the opcode table's, row by row. -/

namespace Sys2Proof

/-- Why an encoded value is no instruction. -/
inductive DecodeReject where
  /-- A SYM8 byte that is none of the four symbols (R97, R100). -/
  | noSuchSymbol
  /-- A value with a set bit at or above its format's width (R90). -/
  | tooWide
  /-- Format OP has no bit patterns (R99). -/
  | noBitPattern
  deriving DecidableEq, Repr

/-- The TEXT8 rows that match a byte (R92, R99). -/
def textRows : List (Byte × Instr) :=
  [(0x41, .upperA), (0x42, .upperB), (0x43, .upperC), (0x44, .upperD),
   (0x45, .upperE), (0x46, .upperF), (0x47, .upperG), (0x48, .upperH),
   (0x49, .upperI), (0x4A, .upperJ), (0x4B, .upperK), (0x4C, .upperL),
   (0x4D, .upperM), (0x4E, .upperN), (0x4F, .upperO), (0x50, .upperP),
   (0x51, .upperQ), (0x52, .upperR), (0x53, .upperS), (0x54, .upperT),
   (0x55, .upperU), (0x56, .upperV), (0x57, .upperW), (0x58, .upperX),
   (0x59, .upperY), (0x5A, .upperZ), (0x61, .lowerA), (0x62, .lowerB),
   (0x63, .lowerC), (0x64, .lowerD), (0x65, .lowerE), (0x66, .lowerF),
   (0x67, .lowerG), (0x68, .lowerH), (0x69, .lowerI), (0x6A, .lowerJ),
   (0x6B, .lowerK), (0x6C, .lowerL), (0x6D, .lowerM), (0x6E, .lowerN),
   (0x6F, .lowerO), (0x70, .lowerP), (0x71, .lowerQ), (0x72, .lowerR),
   (0x73, .lowerS), (0x74, .lowerT), (0x75, .lowerU), (0x76, .lowerV),
   (0x77, .lowerW), (0x78, .lowerX), (0x79, .lowerY), (0x7A, .lowerZ),
   (0x20, .space)]

/-- The SC16 rows that match a code (R93, R99; the values of R124 to R149). -/
def codeRows : List (Code × Instr) :=
  [(0x0000, .gap), (0xB800, .codeA), (0xEA80, .codeB), (0xEBA0, .codeC),
   (0xEA00, .codeD), (0x8000, .codeE), (0xAE80, .codeF), (0xEE80, .codeG),
   (0xAA00, .codeH), (0xA000, .codeI), (0xBBB8, .codeJ), (0xEB80, .codeK),
   (0xBA80, .codeL), (0xEE00, .codeM), (0xE800, .codeN), (0xEEE0, .codeO),
   (0xBBA0, .codeP), (0xEEB8, .codeQ), (0xBA00, .codeR), (0xA800, .codeS),
   (0xE000, .codeT), (0xAE00, .codeU), (0xAB80, .codeV), (0xBB80, .codeW),
   (0xEAE0, .codeX), (0xEBB8, .codeY), (0xEEA0, .codeZ)]

/-- The SYM8 rows (R97). -/
def symbolRows : List (Byte × Instr) :=
  [(0x2E, .symDot), (0x2D, .symDash), (0x20, .symSpace), (0x0A, .symNewline)]

/-- TXW9 (R91): bit 8 selects END or BYTE, bits 7:0 are `data`. -/
def decodeTxw9 (w : BitVec 9) : Instr :=
  if w.getLsbD 8 then .endWord (w.extractLsb' 0 8) else .byteWord (w.extractLsb' 0 8)

/-- TEXT8 (R92): a letter or space row, else the default row IGNORE (R99). -/
def decodeText8 (b : Byte) : Instr := (textRows.lookup b).getD (.ignore b)

/-- SC16 (R93): GAP or a ROM code, else the default row CODE.OTHER (R99, R212). -/
def decodeSc16 (c : Code) : Instr := (codeRows.lookup c).getD (.codeOther c)

/-- WIN3 (R96), in the rule's order of tests. -/
def decodeWin3 (w : BitVec 3) : Instr :=
  if w = 0b111#3 then .dash
  else if w.getLsbD 2 then (if w.getLsbD 1 then .dot110 else .dot10 (w.extractLsb' 0 1))
  else .pad (w.extractLsb' 0 2)

/-- SYM8 (R97): one of the four symbols. -/
def decodeSym8 (b : Byte) : Except DecodeReject Instr :=
  match symbolRows.lookup b with
  | some i => .ok i
  | none => .error .noSuchSymbol

/-- OP (R99): the operation itself. -/
def decodeOp : Op → Instr
  | .lookup idx => .lookup idx
  | .writeStart => .writeStart
  | .seqOverflow => .seqOverflow
  | .playStart => .playStart
  | .fetchLetter => .fetchLetter
  | .walkEnd => .walkEnd
  | .tick => .tick
  | .onExpiry => .onExpiry
  | .offExpiry => .offExpiry
  | .wgapExpiry => .wgapExpiry
  | .nextLetter => .nextLetter
  | .nextGap => .nextGap
  | .lgapExpiry => .lgapExpiry
  | .nextLast => .nextLast
  | .append s => .append s
  | .appendDrop s => .appendDrop s
  | .pop => .pop
  | .drain n => .drain n
  | .reset => .reset

/-- The decoder: every encoded input, by its format (R90). -/
def decode : Encoded → Except DecodeReject Instr
  | .txw9 w => .ok (decodeTxw9 w)
  | .text8 b => .ok (decodeText8 b)
  | .sc16 c => .ok (decodeSc16 c)
  | .win3 w => .ok (decodeWin3 w)
  | .sym8 b => decodeSym8 b
  | .op o => .ok (decodeOp o)

/-- The encoder: the encoded input an instruction is read from (the opcode table's match values). -/
def encode : Instr → Encoded
  | .byteWord b => .txw9 (0#1 ++ b)
  | .endWord b => .txw9 (1#1 ++ b)
  | .upperA => .text8 0x41
  | .upperB => .text8 0x42
  | .upperC => .text8 0x43
  | .upperD => .text8 0x44
  | .upperE => .text8 0x45
  | .upperF => .text8 0x46
  | .upperG => .text8 0x47
  | .upperH => .text8 0x48
  | .upperI => .text8 0x49
  | .upperJ => .text8 0x4A
  | .upperK => .text8 0x4B
  | .upperL => .text8 0x4C
  | .upperM => .text8 0x4D
  | .upperN => .text8 0x4E
  | .upperO => .text8 0x4F
  | .upperP => .text8 0x50
  | .upperQ => .text8 0x51
  | .upperR => .text8 0x52
  | .upperS => .text8 0x53
  | .upperT => .text8 0x54
  | .upperU => .text8 0x55
  | .upperV => .text8 0x56
  | .upperW => .text8 0x57
  | .upperX => .text8 0x58
  | .upperY => .text8 0x59
  | .upperZ => .text8 0x5A
  | .lowerA => .text8 0x61
  | .lowerB => .text8 0x62
  | .lowerC => .text8 0x63
  | .lowerD => .text8 0x64
  | .lowerE => .text8 0x65
  | .lowerF => .text8 0x66
  | .lowerG => .text8 0x67
  | .lowerH => .text8 0x68
  | .lowerI => .text8 0x69
  | .lowerJ => .text8 0x6A
  | .lowerK => .text8 0x6B
  | .lowerL => .text8 0x6C
  | .lowerM => .text8 0x6D
  | .lowerN => .text8 0x6E
  | .lowerO => .text8 0x6F
  | .lowerP => .text8 0x70
  | .lowerQ => .text8 0x71
  | .lowerR => .text8 0x72
  | .lowerS => .text8 0x73
  | .lowerT => .text8 0x74
  | .lowerU => .text8 0x75
  | .lowerV => .text8 0x76
  | .lowerW => .text8 0x77
  | .lowerX => .text8 0x78
  | .lowerY => .text8 0x79
  | .lowerZ => .text8 0x7A
  | .space => .text8 0x20
  | .ignore b => .text8 b
  | .gap => .sc16 0x0000
  | .codeA => .sc16 0xB800
  | .codeB => .sc16 0xEA80
  | .codeC => .sc16 0xEBA0
  | .codeD => .sc16 0xEA00
  | .codeE => .sc16 0x8000
  | .codeF => .sc16 0xAE80
  | .codeG => .sc16 0xEE80
  | .codeH => .sc16 0xAA00
  | .codeI => .sc16 0xA000
  | .codeJ => .sc16 0xBBB8
  | .codeK => .sc16 0xEB80
  | .codeL => .sc16 0xBA80
  | .codeM => .sc16 0xEE00
  | .codeN => .sc16 0xE800
  | .codeO => .sc16 0xEEE0
  | .codeP => .sc16 0xBBA0
  | .codeQ => .sc16 0xEEB8
  | .codeR => .sc16 0xBA00
  | .codeS => .sc16 0xA800
  | .codeT => .sc16 0xE000
  | .codeU => .sc16 0xAE00
  | .codeV => .sc16 0xAB80
  | .codeW => .sc16 0xBB80
  | .codeX => .sc16 0xEAE0
  | .codeY => .sc16 0xEBB8
  | .codeZ => .sc16 0xEEA0
  | .codeOther c => .sc16 c
  | .dash => .win3 0b111
  | .dot10 x => .win3 (0b10#2 ++ x)
  | .dot110 => .win3 0b110
  | .pad xx => .win3 (0#1 ++ xx)
  | .symDot => .sym8 0x2E
  | .symDash => .sym8 0x2D
  | .symSpace => .sym8 0x20
  | .symNewline => .sym8 0x0A
  | .lookup idx => .op (.lookup idx)
  | .writeStart => .op .writeStart
  | .seqOverflow => .op .seqOverflow
  | .playStart => .op .playStart
  | .fetchLetter => .op .fetchLetter
  | .walkEnd => .op .walkEnd
  | .tick => .op .tick
  | .onExpiry => .op .onExpiry
  | .offExpiry => .op .offExpiry
  | .wgapExpiry => .op .wgapExpiry
  | .nextLetter => .op .nextLetter
  | .nextGap => .op .nextGap
  | .lgapExpiry => .op .lgapExpiry
  | .nextLast => .op .nextLast
  | .append s => .op (.append s)
  | .appendDrop s => .op (.appendDrop s)
  | .pop => .op .pop
  | .drain n => .op (.drain n)
  | .reset => .op .reset

/-- The value `w` as an encoded input of format `f`: no bit above the format's width may be set (R90). -/
def encodedOfNat (f : Format) (w : Nat) : Except DecodeReject Encoded :=
  match f with
  | .txw9 => if w < 2 ^ 9 then .ok (.txw9 (BitVec.ofNat 9 w)) else .error .tooWide
  | .text8 => if w < 2 ^ 8 then .ok (.text8 (BitVec.ofNat 8 w)) else .error .tooWide
  | .sc16 => if w < 2 ^ 16 then .ok (.sc16 (BitVec.ofNat 16 w)) else .error .tooWide
  | .win3 => if w < 2 ^ 3 then .ok (.win3 (BitVec.ofNat 3 w)) else .error .tooWide
  | .sym8 => if w < 2 ^ 8 then .ok (.sym8 (BitVec.ofNat 8 w)) else .error .tooWide
  | .op => .error .noBitPattern

/-- Whether a value is one of the 52 letter bytes (R92). -/
def isLetterByte (w : Nat) : Bool :=
  (0x41 ≤ w && w ≤ 0x5A) || (0x61 ≤ w && w ≤ 0x7A)

/-- The format a bare opcode-table word is read in. The table's formats share words and a bare word names no
format, so this is the model's convention (log entry 9): a letter byte or the space is TEXT8; up to 8 bits, a
value below 8 is WIN3, the other three symbols are SYM8, any other is TEXT8; up to 16 bits, a value below
0x200 is a text-port word (TXW9), any other is SC16. A row of format OP has no bits. -/
def tableFormat (nbits w : Nat) : Option Format :=
  if nbits = 0 then none
  else if isLetterByte w then some .text8
  else if nbits ≤ 8 then
    if w < 8 then some .win3
    else if w = 0x2E || w = 0x2D || w = 0x0A then some .sym8
    else some .text8
  else if nbits ≤ 16 then (if w < 0x200 then some .txw9 else some .sc16)
  else none

/-- The encoded input a bare opcode-table word stands for (log entry 9). -/
def tableEncoded (nbits w : Nat) : Option Encoded :=
  match tableFormat nbits w with
  | none => none
  | some f =>
    match encodedOfNat f w with
    | .ok e => some e
    | .error _ => none

/-- The instruction the decoder reads from a bare opcode-table word. -/
def decodeTableWord (nbits w : Nat) : Option Instr :=
  match tableEncoded nbits w with
  | none => none
  | some e =>
    match decode e with
    | .ok i => some i
    | .error _ => none

end Sys2Proof
end

