-- ==== Sys2Proof/Machine/Fetch.lean ====
section
/-! DEFINITION. Which operation is performed next, and from where its encoded form is fetched (spec/00_scope.md R11;
spec/42_player.md R191 to R207; spec/60_exceptions.md R281). -/

namespace Sys2Proof.Machine

/-- The step PLAYER or TIME takes (R281): at `P_FETCH` the code in `seq_mem` (format SC16), at `P_WALK` the window
(format WIN3) or the end of the walk, at `P_NEXT` the transition whose condition holds, otherwise TICK. -/
def ownWork (s : State) : Except Fault Encoded :=
  match s.pState with
  | .pFetch =>
    match currentCode s with
    | .ok c => .ok (.sc16 c)
    | .error f => .error f
  | .pWalk => .ok (if s.bitCnt.toNat < 16 then .win3 (window s.shreg) else .op .walkEnd)
  | .pNext => .ok (.op (if lastCode s then .nextLast else if s.curGap then .nextGap else .nextLetter))
  | .pIdle | .pOn | .pOff | .pWgap | .pLgap => .ok (.op .tick)

/-- The step taken where the environment has chosen none: the reader's outstanding DRAIN, else the block's own work
(log entry 3). -/
def idleWork (s : State) : Except Fault Encoded :=
  if s.drainLeft = 0 then ownWork s else .ok (.op (.drain s.drainLeft))

/-- The encoded input an agent's offer presents (R90, R281). -/
def offerInput : Offer → Encoded
  | .word w => .txw9 w
  | .text b => .text8 b
  | .tick => .op .tick
  | .pop => .op .pop
  | .drain n => .op (.drain n)
  | .reset => .op .reset

/-- An offer that must wait: a text-port word while `tx_ready = 0` (R162), a TICK while the player is in an
instantaneous state (R192). It stays offered. -/
def mustWait (o : Offer) (s : State) : Bool :=
  match o with
  | .word _ | .text _ => !txReady s
  | .tick => s.pState.instantaneous
  | .pop | .drain _ | .reset => false

/-- The operation performed next in the block, with the schedule after it is taken (R281; log entry 3). -/
def fetchTurn (s : State) : Except Fault (Encoded × State) :=
  match s.turns with
  | [] => (idleWork s).map fun e => (e, s)
  | .own :: rest => (ownWork s).map fun e => (e, { s with turns := rest })
  | .reader :: rest => .ok (.op (.drain s.drainLeft), { s with turns := rest })
  | .offer o :: rest =>
    if mustWait o s then (idleWork s).map fun e => (e, s)
    else .ok (offerInput o, { s with turns := rest })

/-- The operation performed next: a symbol that a test bench hands to the FIFO alone (V40 to V45; log entry 20), in the
block the agents' next step. -/
def fetch (s : State) : Except Fault (Encoded × State) :=
  match s.bench with
  | b :: rest => .ok (.sym8 b, { s with bench := rest })
  | [] => fetchTurn s

/-- Put the value `e` where the next step fetches it, for every format at its own place (log entry 9). A signal code
is placed directly in `seq_mem` as a one-code sequence about to be fetched, and a window at the head of such a code's
walk (spec/95_test_vectors.md V34); a text word or byte is offered by WRITER; a symbol is on the bench of the FIFO alone.
No bare word has format OP, and of its operations those of no agent have no place (R281). -/
def placeNext (e : Encoded) (s : State) : State :=
  let offered (o : Offer) : State := { s with turns := .offer o :: s.turns, bench := [] }
  let placed (c : Code) (p : PState) : State :=
    { s with
      phase := .play
      pState := p
      boundary := 1
      seqLen := 1
      rdIdx := 0
      seqMem := memWrite s.seqMem 0 c
      turns := .own :: s.turns
      bench := [] }
  match e with
  | .sc16 c => placed c .pFetch
  | .win3 w =>
    let c : Code := w ++ 0#13
    { placed c .pWalk with shreg := c, bitCnt := 0, curGap := false }
  | .txw9 w => { offered (.word w) with phase := if s.phase == .play then .idle else s.phase }
  | .text8 b => { offered (.text b) with phase := if s.phase == .play then .idle else s.phase }
  | .sym8 b => { s with bench := [b] }
  | .op .tick => { offered .tick with pState := if s.pState.instantaneous then .pIdle else s.pState }
  | .op .pop => offered .pop
  | .op (.drain n) => offered (.drain n)
  | .op .reset => offered .reset
  | .op _ => s

end Sys2Proof.Machine
end

