-- ==== Sys2Proof/Machine/Step.lean ====
section
/-! DEFINITION. One atomic step of the transition system (spec/00_scope.md R11): fetch, decode, perform. -/

namespace Sys2Proof.Machine

/-- One step: the operation that is next, decoded, performed. -/
def step (s : State) : Host.Outcome State Fault Refusal :=
  match fetch s with
  | .error f => .fault f
  | .ok (e, t) =>
    match decode e with
    | .ok i => exec i t
    | .error _ => .refused .noSuchEncoding

/-- `s` with the bare opcode-table word `w` stored where the next step fetches (log entry 9). -/
def State.withFetchWord (s : State) (nbits w : Nat) : State :=
  match tableEncoded nbits w with
  | some e => placeNext e s
  | none => s

end Sys2Proof.Machine
end

