-- ==== Sys2Proof/Machine/Flags.lean ====
section
/-! DEFINITION. The output pins, all functions of the state (spec/10_state.md R41 to R45, R49). `tx_ready` is
`txReady` of Ops; the flags' updates stand with the operations that make them. -/

namespace Sys2Proof.Machine

/-- `tx_valid` and `tx_word` (R41): the text-port word that stands next in the schedule, if one does. -/
def txOffered (s : State) : Option (BitVec 9) :=
  match s.turns with
  | .offer (.word w) :: _ => some w
  | .offer (.text b) :: _ => some (0#1 ++ b)
  | _ => none

/-- `busy` (R44). -/
def busy (s : State) : Bool := s.phase != .idle

/-- `playing` (R44). -/
def playing (s : State) : Bool := s.phase == .play

/-- `rd_valid` (R42). -/
def rdValid (s : State) : Bool := !fifoEmpty s

/-- `rd_count` (R42). -/
def rdCount (s : State) : BitVec 10 := s.count

/-- `rd_data` (R42): the oldest unread symbol while `rd_valid = 1`, a free value otherwise (U9; log entry 8) and for an
entry nothing has written (log entry 2). -/
def rdData (s : State) : Byte :=
  if rdValid s then (memRead s.fifoMem s.rdPtr.toNat).getD (Config.rdDataIdle s.rdPtr s.now)
  else Config.rdDataIdle s.rdPtr s.now

/-- `led` (R35, R43). -/
def ledPin (s : State) : Bool := s.led

/-- `seq_ovf` (R26, R44). -/
def seqOvfPin (s : State) : Bool := s.seqOvf

/-- `tr_ovf` (R39, R44). -/
def trOvfPin (s : State) : Bool := s.trOvf

/-- `tr_drop_cnt` (R39, R44). -/
def trDropCnt (s : State) : BitVec 16 := s.dropCnt

/-- The `done` pulses so far (R45): `done` is not registered, so they are counted in the trace. -/
def donePulses (s : State) : Nat := (s.trace.filter fun x => x.event == Event.done).length

/-- The unread symbols, oldest first: `fifo_mem[(rd_ptr + k) mod 512]` for `k < count` (R231). -/
def contents (s : State) : List (Option Byte) :=
  (List.range s.count.toNat).map fun k => memRead s.fifoMem ((s.rdPtr.toNat + k) % 512)

end Sys2Proof.Machine
end

