-- ==== Sys2Proof/Machine/Pure.lean ====
section
/-! DEFINITION. The functions the spec gives as pure functions, beside the steps that compute them: the encoding of a
pattern (spec/30_encoding.md R94), the elements of a code (spec/42_player.md R217), `build` of a text
(spec/41_encoder.md R170), the trace of a play (R209, R210, R214, R217). `exec` uses none of them. -/

namespace Sys2Proof.Machine

/-! ## Codes and elements -/

/-- The bits of an element group, first bit first: `10` a dot, `1110` a dash (R94). -/
def group : Elem → List Bool
  | .dot => [true, false]
  | .dash => [true, true, true, false]

/-- The content bits of a pattern, first bit first (R94). -/
def contentBits (p : List Elem) : List Bool := p.flatMap group

/-- The 16-bit code whose bits from bit 15 down are `bits`, padded with zeros (R94). -/
def codeOfBits : Nat → List Bool → Code
  | _, [] => 0
  | 0, _ => 0
  | n + 1, b :: bs => (if b then BitVec.ofNat 16 (2 ^ n) else 0) ||| codeOfBits n bs

/-- `enc(pattern)` (R94). -/
def enc (p : List Elem) : Code := codeOfBits 16 (contentBits p)

/-- The element the window starts with, if it starts one (R96). -/
def elementAt (w : BitVec 3) : Option Elem :=
  if w = 0b111 then some .dash else if w.getLsbD 2 then some .dot else none

/-- The walk of a code from bit position `16 − fuel` on, with the holds removed (R196 to R199, R202, R217): `v` is the
code shifted left by the positions consumed; a dash consumes three, a dot or a padding bit one. -/
def elementsFrom : Nat → Code → List Elem
  | 0, _ => []
  | 1, v =>
    match elementAt (window v) with
    | none => []
    | some e => [e]
  | 2, v =>
    match elementAt (window v) with
    | none => elementsFrom 1 (shl16 v 1)
    | some .dot => .dot :: elementsFrom 1 (shl16 v 1)
    | some .dash => [.dash]
  | n + 3, v =>
    match elementAt (window v) with
    | none => elementsFrom (n + 2) (shl16 v 1)
    | some .dot => .dot :: elementsFrom (n + 2) (shl16 v 1)
    | some .dash => .dash :: elementsFrom n (shl16 v 3)

/-- `elements(code)` (R217). -/
def elements (c : Code) : List Elem := elementsFrom 16 c

/-- A pattern written in Morse notation (R16): `.` a dot, `-` a dash. -/
def morse (p : List Char) : List Elem :=
  p.map fun ch => if ch = '-' then .dash else .dot

/-- The 26 Morse patterns in ROM order (R124 to R149; the spec takes 23 of them from general knowledge, G1). -/
def patterns : List (List Elem) :=
  [".-", "-...", "-.-.", "-..", ".", "..-.", "--.", "....", "..", ".---", "-.-", ".-..", "--",
   "-.", "---", ".--.", "--.-", ".-.", "...", "-", "..-", "...-", ".--", "-..-", "-.--", "--.."].map
    fun s => morse s.toList

/-- The symbol of an element (R97). -/
def symbolOf : Elem → Symbol
  | .dot => .dot
  | .dash => .dash

/-- The on-time of an element in base units (R209). -/
def onUnits : Elem → Nat
  | .dot => 1
  | .dash => 3

/-! ## The builder as one function -/

/-- What the builder has made so far (R170). -/
structure Built where
  seq : List Code
  ps : Bool
  bd : Nat
  ovf : Bool
  deriving DecidableEq, Repr

/-- The start of a write (R163, R170); `ovf` is the sticky flag as the write finds it (R26). -/
def Built.start (ovf : Bool) : Built := ⟨[], true, 0, ovf⟩

/-- One byte of the text (R170). -/
def buildByte (a : Built) (b : Byte) : Built :=
  match classify b with
  | .letter k =>
    if a.seq.length < 512 then ⟨a.seq ++ [romWord k], false, a.seq.length + 1, a.ovf⟩
    else { a with ovf := true }
  | .space =>
    if a.ps then a
    else if a.seq.length < 512 then ⟨a.seq ++ [gapCode], true, a.bd, a.ovf⟩
    else { a with ovf := true }
  | .other => a

/-- The builder after the bytes of `text` (R170). -/
def buildText (ovf : Bool) (text : List Byte) : Built := text.foldl buildByte (Built.start ovf)

/-- `build(t)`: the sequence handed to the player, the first `bd` entries (R170). -/
def build (text : List Byte) : List Code :=
  (buildText false text).seq.take (buildText false text).bd

/-! ## The play as one function -/

/-- The trace of an element that starts at time `t` (R197, R198, R201). -/
def elementTrace (t : Nat) (e : Elem) : List Stamped :=
  [⟨t, .on⟩, ⟨t, .append (symbolOf e)⟩, ⟨t + onUnits e, .off⟩]

/-- The trace of a list of elements from time `t`, and the time at which its last gap ends (R201, R202, R209). -/
def elementsTrace : Nat → List Elem → List Stamped × Nat
  | t, [] => ([], t)
  | t, e :: es =>
    let rest := elementsTrace (t + onUnits e + 1) es
    (elementTrace t e ++ rest.1, rest.2)

/-- The trace of one code (R194, R195, R203, R211). -/
def codeTrace (t : Nat) (c : Code) : List Stamped × Nat :=
  if c = gapCode then ([⟨t, .append .space⟩], t + 1) else elementsTrace t (elements c)

/-- The trace of a sequence from time `t` to `Done`, and its end (R204, R205, R207, R213, R214, R217). -/
def playTrace : Nat → List Code → List Stamped × Nat
  | t, [] => ([], t)
  | t, [c] =>
    let r := codeTrace t c
    (r.1 ++ [⟨r.2, .append .newline⟩, ⟨r.2, .done⟩], r.2)
  | t, c :: d :: cs =>
    let r := codeTrace t c
    if c = gapCode then
      let rest := playTrace r.2 (d :: cs)
      (r.1 ++ rest.1, rest.2)
    else
      let rest := playTrace (r.2 + 1) (d :: cs)
      (r.1 ++ [⟨r.2, .append .space⟩] ++ rest.1, rest.2)

/-- Base units from END to `Done`: `2d + 4h + (L − 1) + G` (R210), for the dots, dashes, letter codes and gaps of the
sequence. -/
def playUnits (cs : List Code) : Nat :=
  let letters := cs.filter (· != gapCode)
  let es := letters.flatMap elements
  2 * (es.count .dot) + 4 * (es.count .dash) + (letters.length - 1) + cs.count gapCode

/-- The symbols of a trace, in order (R15). -/
def symbolsOf (tr : List Stamped) : List Symbol :=
  tr.filterMap fun x =>
    match x.event with
    | .append s => some s
    | .on | .off | .done => none

/-- The symbols of one code and of what follows it (R214). -/
def transcript : List Code → List Symbol
  | [] => []
  | [c] => (if c = gapCode then [.space] else (elements c).map symbolOf) ++ [.newline]
  | c :: d :: cs =>
    (if c = gapCode then [.space] else (elements c).map symbolOf ++ [.space]) ++ transcript (d :: cs)

end Sys2Proof.Machine
end

