-- ==== Sys2Proof/Safety.lean ====
section
/-! DEFINITION. The terms claims are stated in: the invariants of spec/10_state.md R50, the recorded fault of
spec/60_exceptions.md R264, agreement of two states outside a part, runs. -/

namespace Sys2Proof.Machine

/-- No recorded fault: the premise of every claim about the original (R264). The flag is never cleared but by RESET, so
it can be checked at the end of a run. -/
def clean (s : State) : Prop := s.seqOvf = false

/-- `k` steps of the machine, stopping at the first fault or refusal. -/
def run (k : Nat) (s : State) : Host.Outcome State Fault Refusal := Host.Core.run Sys2Proof.core k s

/-- Perform the instructions of a list one after the other. -/
def execAll : List Instr → State → Host.Outcome State Fault Refusal
  | [], s => .next s
  | i :: is, s =>
    match exec i s with
    | .next t => execAll is t
    | .fault f => .fault f
    | .refused r => .refused r

/-- The player reads the code `c` at `rd_idx` (R62). -/
def reads (s : State) (c : Code) : Prop :=
  s.rdIdx.toNat < 512 ∧ memRead s.seqMem s.rdIdx.toNat = some c

/-- The player is walking a code (R50 item 3). -/
def PState.walking : PState → Bool
  | .pWalk | .pOn | .pOff => true
  | .pIdle | .pFetch | .pWgap | .pNext | .pLgap => false

/-- The player is playing an element. -/
def PState.inElement : PState → Bool
  | .pOn | .pOff => true
  | .pIdle | .pFetch | .pWalk | .pWgap | .pNext | .pLgap => false

/-- The memories have their canonical form. -/
structure MemOk (s : State) : Prop where
  seqMem : Memory.wf 512 s.seqMem = true
  fifoMem : Memory.wf 512 s.fifoMem = true

/-- The sequence's registers and entries (R50 items 1 and 5). -/
structure SeqOk (s : State) : Prop where
  boundary_le : s.boundary.toNat ≤ s.seqLen.toNat
  seqLen_le : s.seqLen.toNat ≤ 512
  written : ∀ k, k < s.seqLen.toNat → (memRead s.seqMem k).isSome = true

/-- The FIFO's pointers, count and entries (R50 items 5 and 6); every unread entry is one of the four symbols (R97). -/
structure FifoOk (s : State) : Prop where
  count_le : s.count.toNat ≤ 512
  pointers : s.wrPtr.toNat = (s.rdPtr.toNat + s.count.toNat) % 512
  written : ∀ k, k < s.count.toNat →
    ∃ y : Symbol, memRead s.fifoMem ((s.rdPtr.toNat + k) % 512) = some (symbolByte y)

/-- The builder's registers in phase BUILD (R50 item 2). -/
structure BuildOk (s : State) : Prop where
  flag : s.pendingSpace = false ↔ 0 < s.seqLen.toNat ∧ memRead s.seqMem (s.seqLen.toNat - 1) ≠ some gapCode
  no_letter : s.boundary = 0 → s.pendingSpace = true
  last_letter : 0 < s.boundary.toNat → ∃ k : Letter, memRead s.seqMem (s.boundary.toNat - 1) = some (romWord k)
  no_two_gaps : ∀ k, k + 1 < s.seqLen.toNat →
    ¬ (memRead s.seqMem k = some gapCode ∧ memRead s.seqMem (k + 1) = some gapCode)
  first_letter : 0 < s.seqLen.toNat → memRead s.seqMem 0 ≠ some gapCode

/-- The player's registers (R50 items 3, 7 and 8). The last clause is the model's own strengthening: during an element
`cur_elem` is the element the window starts with, so that no advance passes bit position 16 (R197, R202). -/
structure PlayerOk (s : State) : Prop where
  bitCnt_le : s.bitCnt.toNat ≤ 16
  led : s.led = true ↔ s.pState = .pOn
  waiting : 0 < s.waitCnt.toNat ↔ s.pState.holding = true
  active : s.pState ≠ .pIdle ↔ s.phase = .play
  walk : s.pState.walking = true →
    ∃ c, memRead s.seqMem s.rdIdx.toNat = some c ∧ s.shreg = shl16 c s.bitCnt.toNat
  element : s.pState.inElement = true →
    elementAt (window s.shreg) = some s.curElem ∧ s.bitCnt.toNat < 16

/-- The sequence in phase PLAY (R50 item 4). The last clause is the model's own strengthening: `P_LGAP` is entered only
where a code follows (R204, R206). -/
structure PlayOk (s : State) : Prop where
  nonempty : 1 ≤ s.seqLen.toNat
  index : s.rdIdx.toNat < s.seqLen.toNat
  ends_in_letter : memRead s.seqMem (s.seqLen.toNat - 1) ≠ some gapCode
  gap_has_next : s.pState = .pLgap → s.rdIdx.toNat + 1 < s.seqLen.toNat

/-- The invariants of R50. -/
structure Inv (s : State) : Prop where
  mem : MemOk s
  seq : SeqOk s
  fifo : FifoOk s
  build : s.phase = .build → BuildOk s
  player : PlayerOk s
  play : s.phase = .play → PlayOk s

/-- The state without what the transcript FIFO owns (R231) and without what the reader has popped. -/
def withoutFifo (s : State) : State :=
  { s with fifoMem := [], wrPtr := 0, rdPtr := 0, count := 0, trOvf := false, dropCnt := 0, received := [] }

/-- The state without the builder's registers that WRITE_START sets (R163). -/
def withoutBuilder (s : State) : State :=
  { s with seqLen := 0, boundary := 0, pendingSpace := true }

/-- The state a text-port word's own operation works on: a first word has begun the write (R163). -/
def writeBegun (s : State) : State :=
  if s.phase = .idle then { s with seqLen := 0, boundary := 0, pendingSpace := true, phase := .build } else s

/-- The state after an APPEND of `sym`, field by field: stored (R233) or dropped (R234), the event recorded (R14). -/
def appended (sym : Symbol) (s : State) : State :=
  if s.count.toNat < 512 then
    { s with
      trace := s.trace ++ [⟨s.now, .append sym⟩]
      fifoMem := memWrite s.fifoMem s.wrPtr.toNat (symbolByte sym)
      wrPtr := s.wrPtr + 1
      count := s.count + 1 }
  else
    { s with
      trace := s.trace ++ [⟨s.now, .append sym⟩]
      trOvf := true
      dropCnt := if s.dropCnt = 0xFFFF then s.dropCnt else s.dropCnt + 1 }

/-- The text-port instructions: BYTE, END, a letter row, SPACE, IGNORE (R41, R91, R92). -/
def isTextPort (i : Instr) : Prop :=
  (∃ d, i = .byteWord d) ∨ (∃ d, i = .endWord d) ∨ (∃ k, i = .upper k ∨ i = .lower k) ∨ i = .space ∨
    ∃ b, i = .ignore b

/-- The instructions that may store in `seq_mem`: a letter, a space, the BYTE word that carries one (R62). -/
def writesSeqMem (i : Instr) : Prop :=
  (∃ d, i = .byteWord d) ∨ (∃ k, i = .upper k ∨ i = .lower k) ∨ i = .space

/-- The instructions that may store in `fifo_mem`: the five appending transitions (R232), and the operation itself
presented to the FIFO. -/
def appends (i : Instr) : Prop :=
  i = .gap ∨ i = .dash ∨ (∃ x, i = .dot10 x) ∨ i = .dot110 ∨ i = .nextLetter ∨ i = .nextLast ∨
    i = .symDot ∨ i = .symDash ∨ i = .symSpace ∨ i = .symNewline ∨ ∃ b, i = .append b

/-- The text-port word an entry of the schedule offers (R41). -/
def txWord : Turn → Option (BitVec 9)
  | .offer (.word w) => some w
  | .offer (.text b) => some (0#1 ++ b)
  | .offer .tick | .offer .pop | .offer (.drain _) | .offer .reset | .own | .reader => none

/-- The block by itself, not reset: nothing on the FIFO's bench (log entry 20), and RESETTER takes no step. The other
agents' steps are as they may (R281). -/
def undisturbed (s : State) : Prop := s.bench = [] ∧ Turn.offer .reset ∉ s.turns

/-- The instructions that remove a symbol from the FIFO one by one: POP, and DRAIN, which is made of POPs (R232). -/
def pops (i : Instr) : Prop := i = .pop ∨ ∃ n, i = .drain n

end Sys2Proof.Machine
end

