-- ==== Sys2Proof/Certificates/Slice0/Obligations.lean ====
section
/-! DEFINITION. The statements about the model, for the provers. -/

open Sys2Proof Sys2Proof.Machine

/-! ## Encodings -/

/-- No bit of an encoding is dropped: decoding the encoded form of a well-formed instruction gives it back. -/
def Obligations.DecodeOfEncodeGivesBackTheInstruction : Prop :=
  ∀ i : Instr, i.wellFormed = true → decode (encode i) = .ok i

/-- Each encoded value has one meaning: encoding what was decoded gives the value back. -/
def Obligations.EncodeOfDecodeGivesBackTheWord : Prop :=
  ∀ (e : Encoded) (i : Instr), decode e = .ok i → encode i = e

/-- What the decoder reads from a bit format is well formed (format OP has no bits, R99). -/
def Obligations.DecodedBitFormatsAreWellFormed : Prop :=
  ∀ (e : Encoded) (i : Instr), e.format ≠ .op → decode e = .ok i → i.wellFormed = true

/-- Only a SYM8 byte other than the four symbols is no instruction (R100). -/
def Obligations.OnlyNonSymbolsAreRejected : Prop :=
  ∀ e : Encoded, (∃ r, decode e = .error r) ↔ ∃ b : Byte, e = .sym8 b ∧ b ∉ symbols

/-- A few words written out from the spec's encodings decode to the instructions they stand for. -/
def Obligations.WrittenWordsDecode : Prop :=
  decode (.txw9 0b000101101#9) = .ok (.byteWord 0x2D) ∧
  decode (.txw9 0b100001010#9) = .ok (.endWord 0x0A) ∧
  decode (.text8 0b01010011#8) = .ok .upperS ∧
  decode (.text8 0b01111010#8) = .ok .lowerZ ∧
  decode (.text8 0b00100000#8) = .ok .space ∧
  decode (.text8 0b11000001#8) = .ok (.ignore 0xC1) ∧
  decode (.sc16 0b0000000000000000#16) = .ok .gap ∧
  decode (.sc16 0b1010100000000000#16) = .ok .codeS ∧
  decode (.sc16 0b1100000000000000#16) = .ok (.codeOther 0xC000) ∧
  decode (.win3 0b111#3) = .ok .dash ∧
  decode (.win3 0b101#3) = .ok (.dot10 1) ∧
  decode (.win3 0b110#3) = .ok .dot110 ∧
  decode (.win3 0b011#3) = .ok (.pad 0b11) ∧
  decode (.sym8 0b00001010#8) = .ok .symNewline

/-- The classes of a text byte (R92): the 26 upper-case and the 26 lower-case bytes are the letter with that index, 0x20
is the space, every other byte is ignored; the decoder's TEXT8 rows say the same. -/
def Obligations.TextBytesFallIntoTheirClasses : Prop :=
  ∀ b : Byte,
    (∀ k : Letter, classify b = .letter k ↔ b.toNat = 0x41 + k.val ∨ b.toNat = 0x61 + k.val) ∧
    (classify b = .space ↔ b = 0x20) ∧
    (∀ k : Letter, decodeText8 b = .upper k ↔ b.toNat = 0x41 + k.val) ∧
    (∀ k : Letter, decodeText8 b = .lower k ↔ b.toNat = 0x61 + k.val) ∧
    (decodeText8 b = .space ↔ b = 0x20) ∧
    (decodeText8 b = .ignore b ↔ classify b = .other)

/-- A code decodes uniquely: walking the encoding of a pattern that fits in 16 bits gives back exactly the pattern. -/
def Obligations.WalkingAnEncodedPatternGivesItBack : Prop :=
  ∀ p : List Elem, (contentBits p).length ≤ 16 → elements (enc p) = p

/-! ## signal_code_rom -/

/-- LOOKUP of a letter (R121) answers the encoding of its Morse pattern, which is a code with bit 15 set that walks back to
the pattern (R123). Nothing else changes. The patterns are those of log entry 16; the result is kept in the model's field
`lookupOut` (log entry 4). -/
def Obligations.LookupAnswersTheEncodedPattern : Prop :=
  ∀ (k : Letter) (s : State),
    exec (.lookup (BitVec.ofNat 5 k.val)) s = .next { s with lookupOut := some (enc (patterns.getD k.val [])) } ∧
    romWord k = enc (patterns.getD k.val []) ∧ (romWord k).getLsbD 15 = true ∧
    elements (romWord k) = patterns.getD k.val []

/-! ## The sequence builder -/

/-- WRITE_START sets all builder state, and a text-port word accepted in IDLE acts as on the state it leaves (R163). -/
def Obligations.FirstWordBeginsTheWrite : Prop :=
  ∀ s : State, s.phase = .idle →
    let b : State := { s with seqLen := 0, boundary := 0, pendingSpace := true, phase := .build }
    exec .writeStart s = .next b ∧ ∀ i : Instr, isTextPort i → exec i s = exec i b

/-- LETTER (R164, R167), in every form: the 52 letter rows and the BYTE words that carry a letter. -/
def Obligations.LetterAppendsItsCode : Prop :=
  ∀ (k : Letter) (i : Instr) (s : State), s.phase ≠ .play → s.seqLen.toNat ≤ 512 →
    (i = .upper k ∨ i = .lower k ∨
      ∃ b : Byte, i = .byteWord b ∧ (b.toNat = 0x41 + k.val ∨ b.toNat = 0x61 + k.val)) →
    let b := writeBegun s
    exec i s = .next
      (if b.seqLen.toNat = 512 then { b with seqOvf := true }
       else
        { b with
          seqMem := memWrite b.seqMem b.seqLen.toNat (romWord k)
          seqLen := b.seqLen + 1
          pendingSpace := false
          boundary := b.seqLen + 1 })

/-- SPACE (R165, R167), as the row and as the BYTE word that carries 0x20. -/
def Obligations.SpaceAppendsOneGapAfterALetter : Prop :=
  ∀ (i : Instr) (s : State), s.phase ≠ .play → s.seqLen.toNat ≤ 512 → (i = .space ∨ i = .byteWord 0x20) →
    let b := writeBegun s
    exec i s = .next
      (if b.pendingSpace = true then b
       else if b.seqLen.toNat = 512 then { b with seqOvf := true }
       else
        { b with
          seqMem := memWrite b.seqMem b.seqLen.toNat 0x0000
          seqLen := b.seqLen + 1
          pendingSpace := true })

/-- IGNORE (R166): nothing, after WRITE_START if the word is the first. -/
def Obligations.IgnoredBytesChangeNothing : Prop :=
  ∀ (c : Byte) (i : Instr) (s : State), s.phase ≠ .play → classify c = .other →
    (i = .ignore c ∨ i = .byteWord c) → exec i s = .next (writeBegun s)

/-- BYTE is a dispatch on the class of its byte (R169). -/
def Obligations.ByteWordIsADispatch : Prop :=
  ∀ (d : Byte) (s : State), exec (.byteWord d) s = exec (decodeText8 d) s

/-- END (R168, R193): truncate to the boundary; an empty write is done at once, any other starts to play. -/
def Obligations.EndTruncatesAndStartsThePlay : Prop :=
  ∀ (d : Byte) (s : State), s.phase ≠ .play →
    let b := writeBegun s
    exec (.endWord d) s = .next
      (if b.boundary = 0 then
        { b with seqLen := b.boundary, now := 0, phase := .idle, trace := b.trace ++ [⟨0, .done⟩] }
       else
        { b with seqLen := b.boundary, now := 0, phase := .play, rdIdx := 0, pState := .pFetch })

/-- PLAY_START (R193), at the point of an accepted END at which it stands. -/
def Obligations.PlayStartFetchesTheFirstCode : Prop :=
  ∀ s : State, s.phase = .play → s.pState = .pIdle → s.boundary ≠ 0 →
    exec .playStart s = .next { s with rdIdx := 0, pState := .pFetch }

/-- SequenceOverflow (R167): the flag, and nothing else, for SEQ_OVERFLOW, for every letter, for the space that would
append; and no write of at most 512 bytes sets it, which R167 infers. That SEQ_OVERFLOW stands alone in BUILD is the
model's reading (log entry 6). -/
def Obligations.FullSequenceDropsTheCode : Prop :=
  (∀ text : List Byte, text.length ≤ 512 → (buildText false text).ovf = false) ∧
  ∀ (i : Instr) (s : State), s.phase = .build → s.seqLen.toNat = 512 →
    (i = .seqOverflow ∨ (∃ k, i = .upper k ∨ i = .lower k) ∨ (i = .space ∧ s.pendingSpace = false)) →
    exec i s = .next { s with seqOvf := true }

/-- While a play runs no text-port word is accepted: its transaction does not happen (R162), and the word stays offered
while the block goes on with its own work, also where it is given as the TEXT8 value of a BYTE word (log entry 3). -/
def Obligations.TextPortWaitsDuringThePlay : Prop :=
  (∀ (i : Instr) (s : State), isTextPort i → s.phase = .play → exec i s = .next s) ∧
  ∀ (s t : State) (o : Offer) (rest : List Turn), s.phase = .play → s.bench = [] →
    ((∃ w, o = .word w) ∨ ∃ b, o = .text b) → s.turns = .offer o :: rest → step s = .next t → t.turns = s.turns

/-- A letter or a space that appends stores at index `seq_len` and at no other (R62, R164, R165): the index is that of the
state in which the word's own operation works. -/
def Obligations.BuilderStoresOnlyAtSeqLen : Prop :=
  ∀ (i : Instr) (s t : State) (a : Nat), exec i s = .next t → i ≠ .reset →
    (¬ writesSeqMem i ∨ s.phase = .play ∨ a ≠ (writeBegun s).seqLen.toNat) →
    memRead t.seqMem a = memRead s.seqMem a

/-- The bytes of a text, taken as BYTE words from IDLE, build exactly the sequence `build` gives (R170): the codes, the
pending-space flag, the boundary, the overflow flag; after END the first `boundary` codes are the sequence. -/
def Obligations.ByteWordsBuildTheSequence : Prop :=
  ∀ (text : List Byte) (s : State), s.phase = .idle →
    ∃ t, execAll (.writeStart :: text.map .byteWord) s = .next t ∧
      let a := buildText s.seqOvf text
      t.phase = .build ∧ t.seqLen.toNat = a.seq.length ∧ t.boundary.toNat = a.bd ∧ t.pendingSpace = a.ps ∧
      t.seqOvf = a.ovf ∧ (∀ k, k < a.seq.length → memRead t.seqMem k = a.seq[k]?) ∧
      a.bd ≤ a.seq.length ∧ build text = a.seq.take a.bd

/-- What `build` gives never ends in a word gap, never begins with one, and holds no two adjacent ones (R171). -/
def Obligations.BuiltSequencesHaveNoStrayGaps : Prop :=
  ∀ text : List Byte,
    (build text).getLast? ≠ some gapCode ∧ (build text).head? ≠ some gapCode ∧
    (∀ k, ¬ ((build text)[k]? = some gapCode ∧ (build text)[k + 1]? = some gapCode)) ∧
    (build text).length ≤ text.length

/-- Leading and trailing spaces are absorbed, and a run of spaces is one space (R171). -/
def Obligations.SpacesAreAbsorbedAndCollapsed : Prop :=
  (∀ (m n : Nat) (text : List Byte),
    build (List.replicate m 0x20 ++ text ++ List.replicate n 0x20) = build text) ∧
  ∀ (n : Nat) (text more : List Byte),
    build (text ++ List.replicate (n + 1) 0x20 ++ more) = build (text ++ [0x20] ++ more)

/-- Writes are independent (R173): a text-port word accepted in IDLE gives the same state whatever the builder's registers
hold from earlier writes. -/
def Obligations.WritesAreIndependent : Prop :=
  ∀ (i : Instr) (s s' : State), isTextPort i → s.phase = .idle → withoutBuilder s = withoutBuilder s' →
    exec i s = exec i s'

/-! ## The player -/

/-- FETCH of a word-gap code (R194). -/
def Obligations.FetchOfAGapAppendsASpace : Prop :=
  ∀ s : State, s.pState = .pFetch → reads s 0x0000 → s.count.toNat ≤ 512 →
    exec .gap s = .next { appended .space s with curGap := true, waitCnt := 1, pState := .pWgap }

/-- FETCH of a letter code (R195): FETCH_LETTER, and, as the model reads the rows of format SC16 (log entry 11), the row of
the ROM code, CODE.OTHER of any code (a ROM code too, where it is no well-formed instruction), and whatever row the decoder
reads from the code. -/
def Obligations.FetchOfALetterCodeLoadsIt : Prop :=
  ∀ (c : Code) (i : Instr) (s : State), s.pState = .pFetch → reads s c → c ≠ 0x0000 →
    (i = .fetchLetter ∨ (∃ k, i = .code k ∧ c = romWord k) ∨ i = .codeOther c ∨ i = decodeSc16 c) →
    exec i s = .next { s with curGap := false, shreg := c, bitCnt := 0, pState := .pWalk }

/-- A fetch of an entry that nothing has written stops by name (D25: the model's choice, log entry 2). -/
def Obligations.UnwrittenCodeStopsTheFetch : Prop :=
  ∀ (i : Instr) (s : State), s.pState = .pFetch → s.rdIdx.toNat < 512 →
    memRead s.seqMem s.rdIdx.toNat = none →
    (i = .gap ∨ i = .fetchLetter ∨ (∃ k, i = .code k) ∨ ∃ c, i = .codeOther c) →
    exec i s = .fault .unwrittenEntry

/-- WALK, end of code (R196): the test is made before the window is looked at. -/
def Obligations.WalkEndsAtSixteenBits : Prop :=
  ∀ s : State, s.pState = .pWalk → s.bitCnt.toNat = 16 →
    exec .walkEnd s = .next { s with pState := .pNext } ∧
    ownWork s = .ok (.op .walkEnd) ∧
    exec (decodeWin3 (window s.shreg)) s = .next s

/-- WALK, DASH (R197): On, then Append('-'), then the hold of 3 units, whatever the FIFO answers; the window cannot be found
past bit position 13 of a code. -/
def Obligations.WindowOfThreeOnesStartsADash : Prop :=
  ∀ s : State, s.pState = .pWalk → s.bitCnt.toNat < 16 → window s.shreg = 0b111#3 → s.count.toNat ≤ 512 →
    exec .dash s = .next
      { appended .dash { s with led := true, trace := s.trace ++ [⟨s.now, .on⟩] } with
        curElem := .dash, waitCnt := 3, pState := .pOn } ∧
    ∀ c : Code, s.shreg = c <<< s.bitCnt.toNat → s.bitCnt.toNat ≤ 13

/-- WALK, DOT (R198), both encodings: On, then Append('.'), then the hold of 1 unit. -/
def Obligations.WindowOfASingleOneStartsADot : Prop :=
  ∀ (i : Instr) (s : State), s.pState = .pWalk → s.bitCnt.toNat < 16 → s.count.toNat ≤ 512 →
    ((∃ x : BitVec 1, i = .dot10 x ∧ window s.shreg = 0b10#2 ++ x) ∨
      (i = .dot110 ∧ window s.shreg = 0b110#3)) →
    exec i s = .next
      { appended .dot { s with led := true, trace := s.trace ++ [⟨s.now, .on⟩] } with
        curElem := .dot, waitCnt := 1, pState := .pOn }

/-- WALK, PAD (R199): one bit position, no event, no time. -/
def Obligations.WindowOfAZeroIsPassed : Prop :=
  ∀ (xx : BitVec 2) (s : State), s.pState = .pWalk → s.bitCnt.toNat < 16 → window s.shreg = 0#1 ++ xx →
    exec (.pad xx) s = .next { s with shreg := s.shreg <<< 1, bitCnt := s.bitCnt + 1 }

/-- TICK (R200): the hold counts down; the TICK that ends it performs the expiry of the state on the emptied counter;
outside a play nothing but the time changes. -/
def Obligations.TickCountsTheHold : Prop :=
  (∀ s : State, s.pState.holding = true → 1 < s.waitCnt.toNat →
    exec .tick s = .next { s with now := s.now + 1, waitCnt := s.waitCnt - 1 }) ∧
  (∀ s : State, s.waitCnt.toNat = 1 →
    let t : State := { s with now := s.now + 1, waitCnt := 0 }
    (s.pState = .pOn → exec .tick s = exec .onExpiry t) ∧
    (s.pState = .pOff → exec .tick s = exec .offExpiry t) ∧
    (s.pState = .pWgap → exec .tick s = exec .wgapExpiry t) ∧
    (s.pState = .pLgap → exec .tick s = exec .lgapExpiry t)) ∧
  ∀ s : State, s.phase ≠ .play → s.pState = .pIdle → exec .tick s = .next { s with now := s.now + 1 }

/-- The expiry of `P_ON` (R201): Off, then the gap of 1 unit. The Off comes exactly as many TICKs after the start of a hold
as were loaded: 3 after the On of a dash, 1 after the On of a dot. -/
def Obligations.ElementEndsWithOffAndAGap : Prop :=
  (∀ s : State, s.pState = .pOn → s.waitCnt = 0 →
    exec .onExpiry s = .next
      { s with led := false, trace := s.trace ++ [⟨s.now, .off⟩], waitCnt := 1, pState := .pOff }) ∧
  (∀ s : State, s.pState = .pOn → 0 < s.waitCnt.toNat →
    execAll (List.replicate s.waitCnt.toNat .tick) s = .next
      { s with
        now := s.now + s.waitCnt.toNat
        led := false
        trace := s.trace ++ [⟨s.now + s.waitCnt.toNat, .off⟩]
        waitCnt := 1
        pState := .pOff }) ∧
  ∀ (i : Instr) (k : Nat) (sym : Symbol) (s : State), s.pState = .pWalk → s.bitCnt.toNat < 16 →
    ((i = .dash ∧ window s.shreg = 0b111#3 ∧ k = 3 ∧ sym = .dash) ∨
      (k = 1 ∧ sym = .dot ∧
        ((∃ x : BitVec 1, i = .dot10 x ∧ window s.shreg = 0b10#2 ++ x) ∨
          (i = .dot110 ∧ window s.shreg = 0b110#3)))) →
    ∃ t, execAll (i :: List.replicate k .tick) s = .next t ∧ t.pState = .pOff ∧ t.led = false ∧ t.now = s.now + k ∧
      t.trace = s.trace ++ [⟨s.now, .on⟩, ⟨s.now, .append sym⟩, ⟨s.now + k, .off⟩]

/-- The expiry of `P_OFF` (R202): 3 bit positions after a dash, 1 after a dot, never past position 16. -/
def Obligations.GapEndsWithTheAdvance : Prop :=
  (∀ s : State, s.pState = .pOff → s.waitCnt = 0 →
    exec .offExpiry s = .next
      (match s.curElem with
       | .dash => { s with shreg := s.shreg <<< 3, bitCnt := s.bitCnt + 3, pState := .pWalk }
       | .dot => { s with shreg := s.shreg <<< 1, bitCnt := s.bitCnt + 1, pState := .pWalk })) ∧
  ∀ s : State, Inv s → s.pState = .pOff →
    s.bitCnt.toNat + (match s.curElem with | .dash => 3 | .dot => 1) ≤ 16

/-- The expiries of `P_WGAP` and `P_LGAP` (R203, R206). -/
def Obligations.GapExpiriesMoveOn : Prop :=
  (∀ s : State, s.pState = .pWgap → s.waitCnt = 0 → exec .wgapExpiry s = .next { s with pState := .pNext }) ∧
  ∀ s : State, s.pState = .pLgap → s.waitCnt = 0 →
    exec .lgapExpiry s = .next { s with rdIdx := s.rdIdx + 1, pState := .pFetch }

/-- NEXT after a code that is not the last (R204, R205). -/
def Obligations.NextAfterACodeWithASuccessor : Prop :=
  ∀ s : State, s.pState = .pNext → s.rdIdx ≠ s.seqLen - 1 → s.count.toNat ≤ 512 →
    (s.curGap = false →
      exec .nextLetter s = .next { appended .space s with waitCnt := 1, pState := .pLgap }) ∧
    (s.curGap = true → exec .nextGap s = .next { s with rdIdx := s.rdIdx + 1, pState := .pFetch })

/-- NEXT after the last code (R207): newline, then Done, at one instant. -/
def Obligations.NextAfterTheLastCodeCompletes : Prop :=
  ∀ s : State, s.pState = .pNext → s.rdIdx = s.seqLen - 1 → s.count.toNat ≤ 512 →
    exec .nextLast s = .next
      { appended .newline s with
        pState := .pIdle
        phase := .idle
        trace := s.trace ++ [⟨s.now, .append .newline⟩, ⟨s.now, .done⟩] }

/-- Urgency (R192): from a state that meets the invariants, no time passes in an instantaneous state, whatever the
environment does. -/
def Obligations.NoTimePassesInAnInstantaneousState : Prop :=
  ∀ s t : State, Inv s → s.pState.instantaneous = true → step s = .next t → t.now = s.now

/-- The player ignores the FIFO (R208): an operation of another agent than the reader does the same outside the FIFO
whatever the FIFO holds. APPEND and APPEND_DROP presented to the FIFO on their own are left out: which of the two can occur
is the FIFO's own answer (R233, R234). -/
def Obligations.TheFifoNeverInfluencesTheRest : Prop :=
  ∀ (i : Instr) (s s' t : State), ¬ pops i → (∀ b, i ≠ .append b ∧ i ≠ .appendDrop b) →
    withoutFifo s = withoutFifo s' → exec i s = .next t →
    ∃ t', exec i s' = .next t' ∧ withoutFifo t = withoutFifo t'

/-- The walk of a letter code emits exactly the pulses of its elements (R217): from the fetch of any non-zero code the
block's steps reach the end of the walk, having recorded the trace of `elements` and let its time pass, whatever WRITER and
READER do meanwhile (R282; the schedule is log entry 3). The FIFO is sound, so that the reader's pops read what was
appended. -/
def Obligations.PlayingACodeEmitsItsElements : Prop :=
  ∀ (c : Code) (s : State), s.pState = .pFetch → s.phase = .play → reads s c → c ≠ 0x0000 → FifoOk s →
    undisturbed s →
    ∃ n t, run n s = .next t ∧ t.pState = .pNext ∧ t.phase = .play ∧ t.bitCnt.toNat = 16 ∧ t.curGap = false ∧
      t.rdIdx = s.rdIdx ∧ t.seqLen = s.seqLen ∧ t.seqMem = s.seqMem ∧ FifoOk t ∧ t.bench = [] ∧
      (∃ taken, s.turns = taken ++ t.turns) ∧
      t.trace = s.trace ++ (elementsTrace s.now (elements c)).1 ∧ t.now = (elementsTrace s.now (elements c)).2

/-- The trace of a play is a pure function of the sequence (R217): from the fetch of the first code the block's steps reach
the end of the play, having recorded exactly `playTrace`, whatever WRITER and READER do meanwhile (R282; the schedule is log
entry 3). -/
def Obligations.PlayingASequenceRecordsItsTrace : Prop :=
  ∀ (cs : List Code) (s : State), cs ≠ [] → cs.length ≤ 512 → s.phase = .play → s.pState = .pFetch →
    s.rdIdx = 0 → s.seqLen.toNat = cs.length → (∀ k, k < cs.length → memRead s.seqMem k = cs[k]?) →
    FifoOk s → undisturbed s →
    ∃ n t, run n s = .next t ∧ t.phase = .idle ∧ t.pState = .pIdle ∧ FifoOk t ∧ t.bench = [] ∧
      (∃ taken, s.turns = taken ++ t.turns) ∧
      t.trace = s.trace ++ (playTrace s.now cs).1 ∧ t.now = (playTrace s.now cs).2

/-- The duration and the symbols of a play (R210, R214): for a sequence whose last code is a letter code. -/
def Obligations.PlayDurationAndTranscript : Prop :=
  ∀ (t : Nat) (cs : List Code) (c : Code), cs.getLast? = some c → c ≠ gapCode →
    (playTrace t cs).2 = t + playUnits cs ∧ symbolsOf (playTrace t cs).1 = transcript cs

/-- One whole write (R168, R170, R217): whatever the text, its words and END, offered from IDLE on with any steps of TIME and
READER between them and during the play (R282; the schedule is log entry 3), end in Done with exactly the trace of the
sequence `build` gives, and nothing but Done for an empty sequence. -/
def Obligations.AWholeWriteRecordsTheTraceOfItsText : Prop :=
  ∀ (text : List Byte) (d : Byte) (s : State), Inv s → s.phase = .idle → undisturbed s →
    s.turns.filterMap txWord = (text.map fun b => 0#1 ++ b) ++ [1#1 ++ d] →
    ∃ n t, run n s = .next t ∧ t.phase = .idle ∧ t.turns.filterMap txWord = [] ∧
      t.trace = s.trace ++ (if build text = [] then [⟨0, .done⟩] else (playTrace 0 (build text)).1)

/-! ## The transcript FIFO -/

/-- APPEND (R233, R234) in every form: accepted below 512, dropped and counted at 512, for the two rows and for the four
symbol rows; the result it reports says which. That an APPEND standing alone records its event is log entry 13, that a symbol
row is the APPEND of its symbol is log entry 11. -/
def Obligations.AppendStoresOrDrops : Prop :=
  ∀ (sym : Symbol) (s : State), s.count.toNat ≤ 512 →
    (s.count.toNat < 512 → exec (.append sym) s = .next (appended sym s) ∧ appendResult s = .accepted) ∧
    (s.count.toNat = 512 → exec (.appendDrop sym) s = .next (appended sym s) ∧ appendResult s = .overflow) ∧
    exec .symDot s = .next (appended .dot s) ∧ exec .symDash s = .next (appended .dash s) ∧
    exec .symSpace s = .next (appended .space s) ∧ exec .symNewline s = .next (appended .newline s)

/-- An accepted APPEND stores at `wr_ptr` and at no other index (R63); every instruction that is no appending one leaves
`fifo_mem` as it is, RESET apart. -/
def Obligations.AppendStoresOnlyAtWrPtr : Prop :=
  ∀ (i : Instr) (s t : State) (a : Nat), exec i s = .next t → i ≠ .reset →
    (¬ appends i ∨ a ≠ s.wrPtr.toNat) → memRead t.fifoMem a = memRead s.fifoMem a

/-- POP (R236): the oldest unread symbol, the value on `rd_data` (R42), goes to the reader; with an empty buffer nothing
happens (R237). -/
def Obligations.PopTakesTheOldestSymbol : Prop :=
  (∀ (b : Byte) (s : State), 0 < s.count.toNat → memRead s.fifoMem s.rdPtr.toNat = some b →
    rdValid s = true ∧ rdData s = b ∧
    exec .pop s = .next
      { s with rdPtr := s.rdPtr + 1, count := s.count - 1, received := s.received ++ [b] }) ∧
  ∀ s : State, s.count = 0 → rdValid s = false ∧ exec .pop s = .next s

/-- A POP or a DRAIN of an entry that nothing has written stops by name (D25: the model's choice, log entry 2). -/
def Obligations.UnwrittenSymbolStopsThePop : Prop :=
  ∀ s : State, 0 < s.count.toNat → memRead s.fifoMem s.rdPtr.toNat = none →
    exec .pop s = .fault .unwrittenEntry ∧ ∀ n, exec (.drain (n + 1)) s = .fault .unwrittenEntry

/-- One turn of DRAIN (R238): the loop's test, one POP, and one symbol fewer wanted. -/
def Obligations.DrainPopsOneSymbolATurn : Prop :=
  (∀ (n : Nat) (b : Byte) (s : State), 0 < s.count.toNat → memRead s.fifoMem s.rdPtr.toNat = some b →
    exec (.drain (n + 1)) s = .next
      { s with rdPtr := s.rdPtr + 1, count := s.count - 1, received := s.received ++ [b], drainLeft := n }) ∧
  (∀ s : State, exec (.drain 0) s = .next { s with drainLeft := 0 }) ∧
  ∀ (n : Nat) (s : State), s.count = 0 → exec (.drain n) s = .next { s with drainLeft := 0 }

/-- DRAIN(max) with no APPEND between its POPs returns the `min(max, count)` oldest symbols in order (R238). That
no step of another agent falls between them, so no event and no time, in PLAY at an instantaneous state too, holds by the
model's choices, DESIGN CHOICE of log entries 3 and 5: the schedule holds this DRAIN alone, and on an empty schedule what
`drainLeft` still wants goes on before the block's own work. -/
def Obligations.DrainReturnsTheOldestSymbols : Prop :=
  ∀ (max : Nat) (s : State), FifoOk s → s.drainLeft = 0 → s.bench = [] → s.turns = [.offer (.drain max)] →
    ∃ n t, run n s = .next t ∧ t.turns = [] ∧ t.drainLeft = 0 ∧
      t.received.map some = s.received.map some ++ (contents s).take max ∧
      contents t = (contents s).drop max ∧ t.count.toNat = s.count.toNat - min max s.count.toNat ∧
      t.trace = s.trace ∧ t.now = s.now

/-- FIFO order (R71, R231): an accepted APPEND adds its symbol at the young end of the contents, a dropped one changes
nothing, and POP removes from the old end the symbol it returns, which is one of the four (R97). -/
def Obligations.FifoKeepsOrder : Prop :=
  ∀ (sym : Symbol) (s : State), FifoOk s →
    (s.count.toNat < 512 →
      contents (appended sym s) = contents s ++ [some (symbolByte sym)] ∧ FifoOk (appended sym s)) ∧
    (s.count.toNat = 512 → contents (appended sym s) = contents s ∧ FifoOk (appended sym s)) ∧
    ∀ t, 0 < s.count.toNat → exec .pop s = .next t →
      ∃ y : Symbol, contents s = some (symbolByte y) :: contents t ∧ t.received = s.received ++ [symbolByte y] ∧
        FifoOk t

/-- Appending a list of symbols to an empty buffer that nobody reads (R241, R242): the first 512 stay readable in order,
the rest are counted as dropped, up to 65535. -/
def Obligations.UnreadAppendsKeepTheFirst512 : Prop :=
  ∀ (l : List Symbol) (s : State), FifoOk s → s.count = 0 → s.trOvf = false → s.dropCnt = 0 →
    let t := l.foldl (fun u b => appended b u) s
    contents t = ((l.take 512).map fun y => some (symbolByte y)) ∧ t.trOvf = decide (512 < l.length) ∧
      t.dropCnt.toNat = min 65535 (l.length - 512)

/-- An APPEND and a POP at one instant (R239): between empty and full both orders give the same state; at 512 the order
decides whether the symbol is dropped. -/
def Obligations.AppendAndPopInEitherOrder : Prop :=
  ∀ (sym : Symbol) (s : State), FifoOk s →
    (0 < s.count.toNat → s.count.toNat < 512 →
      ∃ t b, execAll [.append sym, .pop] s = .next t ∧ execAll [.pop, .append sym] s = .next t ∧ t.count = s.count ∧
        contents s = some b :: (contents s).tail ∧ t.received = s.received ++ [b] ∧
        contents t = (contents s).tail ++ [some (symbolByte sym)]) ∧
    (s.count.toNat = 512 →
      (∃ t, execAll [.appendDrop sym, .pop] s = .next t ∧ t.count.toNat = 511 ∧ t.trOvf = true) ∧
      ∃ t, execAll [.pop, .append sym] s = .next t ∧ t.count.toNat = 512 ∧ t.trOvf = s.trOvf ∧
        t.dropCnt = s.dropCnt)

/-! ## RESET and the conditions -/

/-- RESET (R292), in any state: every register at its reset value, an Off if the transducer was on, no other event. The
spec leaves the contents of the memories open, so nothing is said of them. -/
def Obligations.ResetLeavesTheResetState : Prop :=
  ∀ s : State, ∃ t, exec .reset s = .next t ∧
    t.phase = .idle ∧ t.pendingSpace = true ∧ t.boundary = 0 ∧ t.seqLen = 0 ∧ t.seqOvf = false ∧
    t.pState = .pIdle ∧ t.rdIdx = 0 ∧ t.shreg = 0 ∧ t.bitCnt = 0 ∧ t.curElem = .dot ∧ t.curGap = false ∧
    t.waitCnt = 0 ∧ t.led = false ∧ t.wrPtr = 0 ∧ t.rdPtr = 0 ∧ t.count = 0 ∧ t.trOvf = false ∧ t.dropCnt = 0 ∧
    t.trace = (if s.led = true then s.trace ++ [⟨s.now, .off⟩] else s.trace) ∧
    txReady t = true ∧ rdValid t = false ∧ busy t = false

/-- The sticky flags (R269): nothing but RESET clears `seq_ovf` or `tr_ovf` or lowers `drop_cnt`. -/
def Obligations.StickyFlagsStayUntilReset : Prop :=
  ∀ (i : Instr) (s t : State), i ≠ .reset → exec i s = .next t →
    (s.seqOvf = true → t.seqOvf = true) ∧ (s.trOvf = true → t.trOvf = true) ∧
      s.dropCnt.toNat ≤ t.dropCnt.toNat

/-- A play runs to its end (R215): nothing but its last NEXT and RESET leaves phase PLAY. -/
def Obligations.OnlyTheEndOrResetLeavesThePlay : Prop :=
  ∀ (i : Instr) (s t : State), s.phase = .play → exec i s = .next t → t.phase ≠ .play → i = .nextLast ∨ i = .reset

/-- Unread symbols stay (R232): nothing but POP, DRAIN and RESET lowers `count` or moves `rd_ptr`. -/
def Obligations.OnlyTheReaderOrResetRemovesSymbols : Prop :=
  ∀ (i : Instr) (s t : State), s.count.toNat ≤ 512 → ¬ pops i → i ≠ .reset → exec i s = .next t →
    s.count.toNat ≤ t.count.toNat ∧ t.rdPtr = s.rdPtr

/-- An operation whose condition does not hold is not enabled and changes nothing (the model's reading of R11 and R281, log
entry 6); LOOKUP of an index that is no letter's gives no value (log entry 12). -/
def Obligations.OperationsThatAreNotEnabledDoNothing : Prop :=
  ∀ s : State,
    (∀ idx : BitVec 5, 26 ≤ idx.toNat → exec (.lookup idx) s = .next { s with lookupOut := none }) ∧
    (s.phase ≠ .idle → exec .writeStart s = .next s) ∧
    (s.phase ≠ .build ∨ s.seqLen.toNat < 512 → exec .seqOverflow s = .next s) ∧
    (s.phase ≠ .play ∨ s.pState ≠ .pIdle ∨ s.boundary = 0 → exec .playStart s = .next s) ∧
    (s.pState ≠ .pFetch → ∀ i, (i = .gap ∨ i = .fetchLetter ∨ (∃ k, i = .code k) ∨ ∃ c, i = .codeOther c) →
      exec i s = .next s) ∧
    (∀ c, s.pState = .pFetch → reads s c →
      (c ≠ 0x0000 → exec .gap s = .next s) ∧ (c = 0x0000 → exec .fetchLetter s = .next s) ∧
      (∀ k, c ≠ romWord k → exec (.code k) s = .next s) ∧
      ∀ d, (c ≠ d ∨ c = 0x0000) → exec (.codeOther d) s = .next s) ∧
    (s.pState ≠ .pWalk ∨ s.bitCnt.toNat ≠ 16 → exec .walkEnd s = .next s) ∧
    (∀ i w, ((i = .dash ∧ w = 0b111#3) ∨ (∃ x : BitVec 1, i = .dot10 x ∧ w = 0b10#2 ++ x) ∨
        (i = .dot110 ∧ w = 0b110#3) ∨ ∃ xx : BitVec 2, i = .pad xx ∧ w = 0#1 ++ xx) →
      s.pState ≠ .pWalk ∨ 16 ≤ s.bitCnt.toNat ∨ window s.shreg ≠ w → exec i s = .next s) ∧
    (∀ i p, ((i = .onExpiry ∧ p = PState.pOn) ∨ (i = .offExpiry ∧ p = .pOff) ∨ (i = .wgapExpiry ∧ p = .pWgap) ∨
        (i = .lgapExpiry ∧ p = .pLgap)) →
      s.pState ≠ p ∨ s.waitCnt ≠ 0 → exec i s = .next s) ∧
    (s.pState ≠ .pNext ∨ s.rdIdx = s.seqLen - 1 ∨ s.curGap = true → exec .nextLetter s = .next s) ∧
    (s.pState ≠ .pNext ∨ s.rdIdx = s.seqLen - 1 ∨ s.curGap = false → exec .nextGap s = .next s) ∧
    (s.pState ≠ .pNext ∨ s.rdIdx ≠ s.seqLen - 1 → exec .nextLast s = .next s) ∧
    (s.pState.instantaneous = true ∨ (s.pState.holding = false ∧ s.phase = .play) → exec .tick s = .next s) ∧
    (512 ≤ s.count.toNat → ∀ y, exec (.append y) s = .next s) ∧
    (s.count.toNat < 512 → ∀ y, exec (.appendDrop y) s = .next s)

/-! ## Steps and invariants -/

/-- A step performs the instruction decoded from what it fetches (the schedule is log entry 3, the bench of the FIFO alone is
log entry 20). The block's own work is the code in `seq_mem`, the window or the end of the walk, the NEXT that applies, or a
TICK. It is taken at an entry `own`, with no entry left, and, the schedule untouched, before an offer that must wait; in the
last two cases an outstanding DRAIN of the reader comes first. An entry `reader` goes on with that DRAIN. Any other offer is
decoded and performed. -/
def Obligations.AStepPerformsTheDecodedInstruction : Prop :=
  ((∀ (s : State) (c : Code), s.pState = .pFetch → reads s c → ownWork s = .ok (.sc16 c)) ∧
    (∀ s : State, s.pState = .pWalk →
      ownWork s = .ok (if s.bitCnt.toNat < 16 then .win3 (window s.shreg) else .op .walkEnd)) ∧
    (∀ s : State, s.pState = .pNext →
      ownWork s = .ok (.op (if s.rdIdx = s.seqLen - 1 then .nextLast else if s.curGap then .nextGap else .nextLetter))) ∧
    ∀ s : State, s.pState.instantaneous = false → ownWork s = .ok (.op .tick)) ∧
  (∀ s : State, (s.drainLeft = 0 → idleWork s = ownWork s) ∧
    (s.drainLeft ≠ 0 → idleWork s = .ok (.op (.drain s.drainLeft)))) ∧
  (∀ (s : State) (e : Encoded) (i : Instr), s.bench = [] → idleWork s = .ok e → decode e = .ok i →
    (s.turns = [] ∨ ∃ o rest, s.turns = .offer o :: rest ∧ mustWait o s = true) → step s = exec i s) ∧
  (∀ (s : State) (e : Encoded) (rest : List Turn) (i : Instr), s.bench = [] → s.turns = .own :: rest →
    ownWork s = .ok e → decode e = .ok i → step s = exec i { s with turns := rest }) ∧
  (∀ (s : State) (rest : List Turn), s.bench = [] → s.turns = .reader :: rest →
    step s = exec (.drain s.drainLeft) { s with turns := rest }) ∧
  (∀ (s : State) (o : Offer) (rest : List Turn) (i : Instr), s.bench = [] → s.turns = .offer o :: rest →
    mustWait o s = false → decode (offerInput o) = .ok i → step s = exec i { s with turns := rest }) ∧
  ∀ (s : State) (b : Byte) (rest : List Byte) (i : Instr), s.bench = b :: rest → decode (.sym8 b) = .ok i →
    step s = exec i { s with bench := rest }

/-- The bare word of a table row, stored where the next step fetches, is the instruction that step performs (the model's
convention, log entry 9). -/
def Obligations.AStoredTableWordIsPerformedNext : Prop :=
  ∀ (s : State) (nbits w : Nat) (i : Instr), decodeTableWord nbits w = some i →
    step (s.withFetchWord nbits w) = exec i { s.withFetchWord nbits w with turns := s.turns, bench := [] }

/-- The invariants hold after RESET. -/
def Obligations.InvariantsHoldAtReset : Prop := Inv State.reset

/-- Every step keeps the invariants of R50, and that every unread byte is one of the four symbols (R97), whatever the agents
offer. -/
def Obligations.EveryStepKeepsTheInvariants : Prop :=
  ∀ s t : State, Inv s → step s = .next t → Inv t

/-- Under the invariants no step faults: no unspecified content is ever read (R50 item 5). A step is refused only where a
bench hands the FIFO a SYM8 byte that is no symbol (log entries 19 and 20), so never in the block. -/
def Obligations.NoStepFaultsUnderTheInvariants : Prop :=
  ∀ s : State, Inv s →
    (∃ t, step s = .next t) ∨
      (step s = .refused .noSuchEncoding ∧ ∃ b rest, b ∉ symbols ∧ s.bench = b :: rest)
end

