-- ==== Sys2Proof/Laws/Memory.lean ====
section
/-! SUPPORT. The laws of `memRead` and `memWrite`, and that every memory operation keeps the canonical form. -/

namespace Sys2Proof.Machine

variable {w : Nat}

theorem memRead_memWrite (m : List (Nat × BitVec w)) (a b : Nat) (v : BitVec w) :
    memRead (memWrite m a v) b = if b = a then some v else memRead m b := by
  induction m with
  | nil => simp [memWrite, memRead]
  | cons h t ih =>
    obtain ⟨c, x⟩ := h
    simp only [memWrite]
    split
    · simp [memRead]
    · split
      · rename_i hac; subst hac; simp only [memRead]; split <;> rfl
      · rename_i hac
        simp only [memRead, ih]
        by_cases hbc : b = c
        · subst hbc; simp [Ne.symm hac]
        · simp [hbc]

@[simp] theorem memRead_memWrite_same (m : List (Nat × BitVec w)) (a : Nat) (v : BitVec w) :
    memRead (memWrite m a v) a = some v := by simp [memRead_memWrite]

theorem memRead_memWrite_other (m : List (Nat × BitVec w)) {a b : Nat} (v : BitVec w) (h : b ≠ a) :
    memRead (memWrite m a v) b = memRead m b := by simp [memRead_memWrite, h]

theorem Memory.rising_cons {cap lo a : Nat} {x : BitVec w} {m : List (Nat × BitVec w)} :
    Memory.rising cap lo ((a, x) :: m) = true ↔ lo ≤ a ∧ a < cap ∧ Memory.rising cap (a + 1) m = true := by
  simp [Memory.rising, and_assoc]

/-- A write inside the memory keeps the indices rising. -/
theorem Memory.rising_memWrite {cap : Nat} (m : List (Nat × BitVec w)) {lo a : Nat} (v : BitVec w)
    (hm : Memory.rising cap lo m = true) (hlo : lo ≤ a) (ha : a < cap) :
    Memory.rising cap lo (memWrite m a v) = true := by
  induction m generalizing lo with
  | nil => simp [memWrite, Memory.rising, hlo, ha]
  | cons h t ih =>
    obtain ⟨c, x⟩ := h
    obtain ⟨hc, hcap, ht⟩ := Memory.rising_cons.mp hm
    simp only [memWrite]
    split
    · rename_i hac
      exact Memory.rising_cons.mpr ⟨hlo, ha, Memory.rising_cons.mpr ⟨hac, hcap, ht⟩⟩
    · split
      · rename_i hac; subst hac
        exact Memory.rising_cons.mpr ⟨hlo, ha, ht⟩
      · exact Memory.rising_cons.mpr ⟨hc, hcap, ih ht (by omega)⟩

/-- `MemWrite` keeps the canonical form. -/
theorem Memory.wf_memWrite {cap : Nat} {m : List (Nat × BitVec w)} {a : Nat} (v : BitVec w)
    (hm : Memory.wf cap m = true) (ha : a < cap) : Memory.wf cap (memWrite m a v) = true :=
  Memory.rising_memWrite m v hm (Nat.zero_le a) ha

/-- The memories after RESET have the canonical form. -/
theorem reset_memories_wf :
    Memory.wf 512 State.reset.seqMem = true ∧ Memory.wf 512 State.reset.fifoMem = true := by decide

end Sys2Proof.Machine
end

