-- ==== Sys2Proof/Laws/State.lean ====
section
/-! SUPPORT. The small lemmas of the state's updates: one per field that an operation of Machine/Ops.lean leaves as it
is, and the fields the plain updates set. -/

namespace Sys2Proof.Machine

variable (s : State)

/-! ### emit -/

@[simp] theorem emit_phase (e : Event) : (emit e s).phase = s.phase := rfl
@[simp] theorem emit_pendingSpace (e : Event) : (emit e s).pendingSpace = s.pendingSpace := rfl
@[simp] theorem emit_boundary (e : Event) : (emit e s).boundary = s.boundary := rfl
@[simp] theorem emit_seqLen (e : Event) : (emit e s).seqLen = s.seqLen := rfl
@[simp] theorem emit_seqMem (e : Event) : (emit e s).seqMem = s.seqMem := rfl
@[simp] theorem emit_seqOvf (e : Event) : (emit e s).seqOvf = s.seqOvf := rfl
@[simp] theorem emit_pState (e : Event) : (emit e s).pState = s.pState := rfl
@[simp] theorem emit_rdIdx (e : Event) : (emit e s).rdIdx = s.rdIdx := rfl
@[simp] theorem emit_shreg (e : Event) : (emit e s).shreg = s.shreg := rfl
@[simp] theorem emit_bitCnt (e : Event) : (emit e s).bitCnt = s.bitCnt := rfl
@[simp] theorem emit_curElem (e : Event) : (emit e s).curElem = s.curElem := rfl
@[simp] theorem emit_curGap (e : Event) : (emit e s).curGap = s.curGap := rfl
@[simp] theorem emit_waitCnt (e : Event) : (emit e s).waitCnt = s.waitCnt := rfl
@[simp] theorem emit_led (e : Event) : (emit e s).led = s.led := rfl
@[simp] theorem emit_fifoMem (e : Event) : (emit e s).fifoMem = s.fifoMem := rfl
@[simp] theorem emit_wrPtr (e : Event) : (emit e s).wrPtr = s.wrPtr := rfl
@[simp] theorem emit_rdPtr (e : Event) : (emit e s).rdPtr = s.rdPtr := rfl
@[simp] theorem emit_count (e : Event) : (emit e s).count = s.count := rfl
@[simp] theorem emit_trOvf (e : Event) : (emit e s).trOvf = s.trOvf := rfl
@[simp] theorem emit_dropCnt (e : Event) : (emit e s).dropCnt = s.dropCnt := rfl
@[simp] theorem emit_turns (e : Event) : (emit e s).turns = s.turns := rfl
@[simp] theorem emit_bench (e : Event) : (emit e s).bench = s.bench := rfl
@[simp] theorem emit_drainLeft (e : Event) : (emit e s).drainLeft = s.drainLeft := rfl
@[simp] theorem emit_now (e : Event) : (emit e s).now = s.now := rfl
@[simp] theorem emit_received (e : Event) : (emit e s).received = s.received := rfl
@[simp] theorem emit_lookupOut (e : Event) : (emit e s).lookupOut = s.lookupOut := rfl

/-! ### emitOn -/

@[simp] theorem emitOn_phase : (emitOn s).phase = s.phase := rfl
@[simp] theorem emitOn_pendingSpace : (emitOn s).pendingSpace = s.pendingSpace := rfl
@[simp] theorem emitOn_boundary : (emitOn s).boundary = s.boundary := rfl
@[simp] theorem emitOn_seqLen : (emitOn s).seqLen = s.seqLen := rfl
@[simp] theorem emitOn_seqMem : (emitOn s).seqMem = s.seqMem := rfl
@[simp] theorem emitOn_seqOvf : (emitOn s).seqOvf = s.seqOvf := rfl
@[simp] theorem emitOn_pState : (emitOn s).pState = s.pState := rfl
@[simp] theorem emitOn_rdIdx : (emitOn s).rdIdx = s.rdIdx := rfl
@[simp] theorem emitOn_shreg : (emitOn s).shreg = s.shreg := rfl
@[simp] theorem emitOn_bitCnt : (emitOn s).bitCnt = s.bitCnt := rfl
@[simp] theorem emitOn_curElem : (emitOn s).curElem = s.curElem := rfl
@[simp] theorem emitOn_curGap : (emitOn s).curGap = s.curGap := rfl
@[simp] theorem emitOn_waitCnt : (emitOn s).waitCnt = s.waitCnt := rfl
@[simp] theorem emitOn_fifoMem : (emitOn s).fifoMem = s.fifoMem := rfl
@[simp] theorem emitOn_wrPtr : (emitOn s).wrPtr = s.wrPtr := rfl
@[simp] theorem emitOn_rdPtr : (emitOn s).rdPtr = s.rdPtr := rfl
@[simp] theorem emitOn_count : (emitOn s).count = s.count := rfl
@[simp] theorem emitOn_trOvf : (emitOn s).trOvf = s.trOvf := rfl
@[simp] theorem emitOn_dropCnt : (emitOn s).dropCnt = s.dropCnt := rfl
@[simp] theorem emitOn_turns : (emitOn s).turns = s.turns := rfl
@[simp] theorem emitOn_bench : (emitOn s).bench = s.bench := rfl
@[simp] theorem emitOn_drainLeft : (emitOn s).drainLeft = s.drainLeft := rfl
@[simp] theorem emitOn_now : (emitOn s).now = s.now := rfl
@[simp] theorem emitOn_received : (emitOn s).received = s.received := rfl
@[simp] theorem emitOn_lookupOut : (emitOn s).lookupOut = s.lookupOut := rfl

/-! ### emitOff -/

@[simp] theorem emitOff_phase : (emitOff s).phase = s.phase := rfl
@[simp] theorem emitOff_pendingSpace : (emitOff s).pendingSpace = s.pendingSpace := rfl
@[simp] theorem emitOff_boundary : (emitOff s).boundary = s.boundary := rfl
@[simp] theorem emitOff_seqLen : (emitOff s).seqLen = s.seqLen := rfl
@[simp] theorem emitOff_seqMem : (emitOff s).seqMem = s.seqMem := rfl
@[simp] theorem emitOff_seqOvf : (emitOff s).seqOvf = s.seqOvf := rfl
@[simp] theorem emitOff_pState : (emitOff s).pState = s.pState := rfl
@[simp] theorem emitOff_rdIdx : (emitOff s).rdIdx = s.rdIdx := rfl
@[simp] theorem emitOff_shreg : (emitOff s).shreg = s.shreg := rfl
@[simp] theorem emitOff_bitCnt : (emitOff s).bitCnt = s.bitCnt := rfl
@[simp] theorem emitOff_curElem : (emitOff s).curElem = s.curElem := rfl
@[simp] theorem emitOff_curGap : (emitOff s).curGap = s.curGap := rfl
@[simp] theorem emitOff_waitCnt : (emitOff s).waitCnt = s.waitCnt := rfl
@[simp] theorem emitOff_fifoMem : (emitOff s).fifoMem = s.fifoMem := rfl
@[simp] theorem emitOff_wrPtr : (emitOff s).wrPtr = s.wrPtr := rfl
@[simp] theorem emitOff_rdPtr : (emitOff s).rdPtr = s.rdPtr := rfl
@[simp] theorem emitOff_count : (emitOff s).count = s.count := rfl
@[simp] theorem emitOff_trOvf : (emitOff s).trOvf = s.trOvf := rfl
@[simp] theorem emitOff_dropCnt : (emitOff s).dropCnt = s.dropCnt := rfl
@[simp] theorem emitOff_turns : (emitOff s).turns = s.turns := rfl
@[simp] theorem emitOff_bench : (emitOff s).bench = s.bench := rfl
@[simp] theorem emitOff_drainLeft : (emitOff s).drainLeft = s.drainLeft := rfl
@[simp] theorem emitOff_now : (emitOff s).now = s.now := rfl
@[simp] theorem emitOff_received : (emitOff s).received = s.received := rfl
@[simp] theorem emitOff_lookupOut : (emitOff s).lookupOut = s.lookupOut := rfl

/-! ### hold -/

@[simp] theorem hold_phase (k : BitVec 2) : (hold k s).phase = s.phase := rfl
@[simp] theorem hold_pendingSpace (k : BitVec 2) : (hold k s).pendingSpace = s.pendingSpace := rfl
@[simp] theorem hold_boundary (k : BitVec 2) : (hold k s).boundary = s.boundary := rfl
@[simp] theorem hold_seqLen (k : BitVec 2) : (hold k s).seqLen = s.seqLen := rfl
@[simp] theorem hold_seqMem (k : BitVec 2) : (hold k s).seqMem = s.seqMem := rfl
@[simp] theorem hold_seqOvf (k : BitVec 2) : (hold k s).seqOvf = s.seqOvf := rfl
@[simp] theorem hold_pState (k : BitVec 2) : (hold k s).pState = s.pState := rfl
@[simp] theorem hold_rdIdx (k : BitVec 2) : (hold k s).rdIdx = s.rdIdx := rfl
@[simp] theorem hold_shreg (k : BitVec 2) : (hold k s).shreg = s.shreg := rfl
@[simp] theorem hold_bitCnt (k : BitVec 2) : (hold k s).bitCnt = s.bitCnt := rfl
@[simp] theorem hold_curElem (k : BitVec 2) : (hold k s).curElem = s.curElem := rfl
@[simp] theorem hold_curGap (k : BitVec 2) : (hold k s).curGap = s.curGap := rfl
@[simp] theorem hold_led (k : BitVec 2) : (hold k s).led = s.led := rfl
@[simp] theorem hold_fifoMem (k : BitVec 2) : (hold k s).fifoMem = s.fifoMem := rfl
@[simp] theorem hold_wrPtr (k : BitVec 2) : (hold k s).wrPtr = s.wrPtr := rfl
@[simp] theorem hold_rdPtr (k : BitVec 2) : (hold k s).rdPtr = s.rdPtr := rfl
@[simp] theorem hold_count (k : BitVec 2) : (hold k s).count = s.count := rfl
@[simp] theorem hold_trOvf (k : BitVec 2) : (hold k s).trOvf = s.trOvf := rfl
@[simp] theorem hold_dropCnt (k : BitVec 2) : (hold k s).dropCnt = s.dropCnt := rfl
@[simp] theorem hold_turns (k : BitVec 2) : (hold k s).turns = s.turns := rfl
@[simp] theorem hold_bench (k : BitVec 2) : (hold k s).bench = s.bench := rfl
@[simp] theorem hold_drainLeft (k : BitVec 2) : (hold k s).drainLeft = s.drainLeft := rfl
@[simp] theorem hold_now (k : BitVec 2) : (hold k s).now = s.now := rfl
@[simp] theorem hold_trace (k : BitVec 2) : (hold k s).trace = s.trace := rfl
@[simp] theorem hold_received (k : BitVec 2) : (hold k s).received = s.received := rfl
@[simp] theorem hold_lookupOut (k : BitVec 2) : (hold k s).lookupOut = s.lookupOut := rfl

/-! ### raise -/

@[simp] theorem raise_phase (x : Condition) : (raise x s).phase = s.phase := by cases x <;> rfl
@[simp] theorem raise_pendingSpace (x : Condition) : (raise x s).pendingSpace = s.pendingSpace := by cases x <;> rfl
@[simp] theorem raise_boundary (x : Condition) : (raise x s).boundary = s.boundary := by cases x <;> rfl
@[simp] theorem raise_seqLen (x : Condition) : (raise x s).seqLen = s.seqLen := by cases x <;> rfl
@[simp] theorem raise_seqMem (x : Condition) : (raise x s).seqMem = s.seqMem := by cases x <;> rfl
@[simp] theorem raise_pState (x : Condition) : (raise x s).pState = s.pState := by cases x <;> rfl
@[simp] theorem raise_rdIdx (x : Condition) : (raise x s).rdIdx = s.rdIdx := by cases x <;> rfl
@[simp] theorem raise_shreg (x : Condition) : (raise x s).shreg = s.shreg := by cases x <;> rfl
@[simp] theorem raise_bitCnt (x : Condition) : (raise x s).bitCnt = s.bitCnt := by cases x <;> rfl
@[simp] theorem raise_curElem (x : Condition) : (raise x s).curElem = s.curElem := by cases x <;> rfl
@[simp] theorem raise_curGap (x : Condition) : (raise x s).curGap = s.curGap := by cases x <;> rfl
@[simp] theorem raise_waitCnt (x : Condition) : (raise x s).waitCnt = s.waitCnt := by cases x <;> rfl
@[simp] theorem raise_led (x : Condition) : (raise x s).led = s.led := by cases x <;> rfl
@[simp] theorem raise_fifoMem (x : Condition) : (raise x s).fifoMem = s.fifoMem := by cases x <;> rfl
@[simp] theorem raise_wrPtr (x : Condition) : (raise x s).wrPtr = s.wrPtr := by cases x <;> rfl
@[simp] theorem raise_rdPtr (x : Condition) : (raise x s).rdPtr = s.rdPtr := by cases x <;> rfl
@[simp] theorem raise_count (x : Condition) : (raise x s).count = s.count := by cases x <;> rfl
@[simp] theorem raise_turns (x : Condition) : (raise x s).turns = s.turns := by cases x <;> rfl
@[simp] theorem raise_bench (x : Condition) : (raise x s).bench = s.bench := by cases x <;> rfl
@[simp] theorem raise_drainLeft (x : Condition) : (raise x s).drainLeft = s.drainLeft := by cases x <;> rfl
@[simp] theorem raise_now (x : Condition) : (raise x s).now = s.now := by cases x <;> rfl
@[simp] theorem raise_trace (x : Condition) : (raise x s).trace = s.trace := by cases x <;> rfl
@[simp] theorem raise_received (x : Condition) : (raise x s).received = s.received := by cases x <;> rfl
@[simp] theorem raise_lookupOut (x : Condition) : (raise x s).lookupOut = s.lookupOut := by cases x <;> rfl

/-! ### fifoStore -/

@[simp] theorem fifoStore_phase (sym : Symbol) : (fifoStore sym s).phase = s.phase := rfl
@[simp] theorem fifoStore_pendingSpace (sym : Symbol) : (fifoStore sym s).pendingSpace = s.pendingSpace := rfl
@[simp] theorem fifoStore_boundary (sym : Symbol) : (fifoStore sym s).boundary = s.boundary := rfl
@[simp] theorem fifoStore_seqLen (sym : Symbol) : (fifoStore sym s).seqLen = s.seqLen := rfl
@[simp] theorem fifoStore_seqMem (sym : Symbol) : (fifoStore sym s).seqMem = s.seqMem := rfl
@[simp] theorem fifoStore_seqOvf (sym : Symbol) : (fifoStore sym s).seqOvf = s.seqOvf := rfl
@[simp] theorem fifoStore_pState (sym : Symbol) : (fifoStore sym s).pState = s.pState := rfl
@[simp] theorem fifoStore_rdIdx (sym : Symbol) : (fifoStore sym s).rdIdx = s.rdIdx := rfl
@[simp] theorem fifoStore_shreg (sym : Symbol) : (fifoStore sym s).shreg = s.shreg := rfl
@[simp] theorem fifoStore_bitCnt (sym : Symbol) : (fifoStore sym s).bitCnt = s.bitCnt := rfl
@[simp] theorem fifoStore_curElem (sym : Symbol) : (fifoStore sym s).curElem = s.curElem := rfl
@[simp] theorem fifoStore_curGap (sym : Symbol) : (fifoStore sym s).curGap = s.curGap := rfl
@[simp] theorem fifoStore_waitCnt (sym : Symbol) : (fifoStore sym s).waitCnt = s.waitCnt := rfl
@[simp] theorem fifoStore_led (sym : Symbol) : (fifoStore sym s).led = s.led := rfl
@[simp] theorem fifoStore_rdPtr (sym : Symbol) : (fifoStore sym s).rdPtr = s.rdPtr := rfl
@[simp] theorem fifoStore_trOvf (sym : Symbol) : (fifoStore sym s).trOvf = s.trOvf := rfl
@[simp] theorem fifoStore_dropCnt (sym : Symbol) : (fifoStore sym s).dropCnt = s.dropCnt := rfl
@[simp] theorem fifoStore_turns (sym : Symbol) : (fifoStore sym s).turns = s.turns := rfl
@[simp] theorem fifoStore_bench (sym : Symbol) : (fifoStore sym s).bench = s.bench := rfl
@[simp] theorem fifoStore_drainLeft (sym : Symbol) : (fifoStore sym s).drainLeft = s.drainLeft := rfl
@[simp] theorem fifoStore_now (sym : Symbol) : (fifoStore sym s).now = s.now := rfl
@[simp] theorem fifoStore_trace (sym : Symbol) : (fifoStore sym s).trace = s.trace := rfl
@[simp] theorem fifoStore_received (sym : Symbol) : (fifoStore sym s).received = s.received := rfl
@[simp] theorem fifoStore_lookupOut (sym : Symbol) : (fifoStore sym s).lookupOut = s.lookupOut := rfl

/-! ### emitAppend -/

@[simp] theorem emitAppend_phase (sym : Symbol) : (emitAppend sym s).phase = s.phase := by unfold emitAppend; cases appendResult s <;> rfl
@[simp] theorem emitAppend_pendingSpace (sym : Symbol) : (emitAppend sym s).pendingSpace = s.pendingSpace := by unfold emitAppend; cases appendResult s <;> rfl
@[simp] theorem emitAppend_boundary (sym : Symbol) : (emitAppend sym s).boundary = s.boundary := by unfold emitAppend; cases appendResult s <;> rfl
@[simp] theorem emitAppend_seqLen (sym : Symbol) : (emitAppend sym s).seqLen = s.seqLen := by unfold emitAppend; cases appendResult s <;> rfl
@[simp] theorem emitAppend_seqMem (sym : Symbol) : (emitAppend sym s).seqMem = s.seqMem := by unfold emitAppend; cases appendResult s <;> rfl
@[simp] theorem emitAppend_seqOvf (sym : Symbol) : (emitAppend sym s).seqOvf = s.seqOvf := by unfold emitAppend; cases appendResult s <;> rfl
@[simp] theorem emitAppend_pState (sym : Symbol) : (emitAppend sym s).pState = s.pState := by unfold emitAppend; cases appendResult s <;> rfl
@[simp] theorem emitAppend_rdIdx (sym : Symbol) : (emitAppend sym s).rdIdx = s.rdIdx := by unfold emitAppend; cases appendResult s <;> rfl
@[simp] theorem emitAppend_shreg (sym : Symbol) : (emitAppend sym s).shreg = s.shreg := by unfold emitAppend; cases appendResult s <;> rfl
@[simp] theorem emitAppend_bitCnt (sym : Symbol) : (emitAppend sym s).bitCnt = s.bitCnt := by unfold emitAppend; cases appendResult s <;> rfl
@[simp] theorem emitAppend_curElem (sym : Symbol) : (emitAppend sym s).curElem = s.curElem := by unfold emitAppend; cases appendResult s <;> rfl
@[simp] theorem emitAppend_curGap (sym : Symbol) : (emitAppend sym s).curGap = s.curGap := by unfold emitAppend; cases appendResult s <;> rfl
@[simp] theorem emitAppend_waitCnt (sym : Symbol) : (emitAppend sym s).waitCnt = s.waitCnt := by unfold emitAppend; cases appendResult s <;> rfl
@[simp] theorem emitAppend_led (sym : Symbol) : (emitAppend sym s).led = s.led := by unfold emitAppend; cases appendResult s <;> rfl
@[simp] theorem emitAppend_rdPtr (sym : Symbol) : (emitAppend sym s).rdPtr = s.rdPtr := by unfold emitAppend; cases appendResult s <;> rfl
@[simp] theorem emitAppend_turns (sym : Symbol) : (emitAppend sym s).turns = s.turns := by unfold emitAppend; cases appendResult s <;> rfl
@[simp] theorem emitAppend_bench (sym : Symbol) : (emitAppend sym s).bench = s.bench := by unfold emitAppend; cases appendResult s <;> rfl
@[simp] theorem emitAppend_drainLeft (sym : Symbol) : (emitAppend sym s).drainLeft = s.drainLeft := by unfold emitAppend; cases appendResult s <;> rfl
@[simp] theorem emitAppend_now (sym : Symbol) : (emitAppend sym s).now = s.now := by unfold emitAppend; cases appendResult s <;> rfl
@[simp] theorem emitAppend_received (sym : Symbol) : (emitAppend sym s).received = s.received := by unfold emitAppend; cases appendResult s <;> rfl
@[simp] theorem emitAppend_lookupOut (sym : Symbol) : (emitAppend sym s).lookupOut = s.lookupOut := by unfold emitAppend; cases appendResult s <;> rfl

/-! ### fifoTake -/

@[simp] theorem fifoTake_phase (b : Byte) : (fifoTake b s).phase = s.phase := rfl
@[simp] theorem fifoTake_pendingSpace (b : Byte) : (fifoTake b s).pendingSpace = s.pendingSpace := rfl
@[simp] theorem fifoTake_boundary (b : Byte) : (fifoTake b s).boundary = s.boundary := rfl
@[simp] theorem fifoTake_seqLen (b : Byte) : (fifoTake b s).seqLen = s.seqLen := rfl
@[simp] theorem fifoTake_seqMem (b : Byte) : (fifoTake b s).seqMem = s.seqMem := rfl
@[simp] theorem fifoTake_seqOvf (b : Byte) : (fifoTake b s).seqOvf = s.seqOvf := rfl
@[simp] theorem fifoTake_pState (b : Byte) : (fifoTake b s).pState = s.pState := rfl
@[simp] theorem fifoTake_rdIdx (b : Byte) : (fifoTake b s).rdIdx = s.rdIdx := rfl
@[simp] theorem fifoTake_shreg (b : Byte) : (fifoTake b s).shreg = s.shreg := rfl
@[simp] theorem fifoTake_bitCnt (b : Byte) : (fifoTake b s).bitCnt = s.bitCnt := rfl
@[simp] theorem fifoTake_curElem (b : Byte) : (fifoTake b s).curElem = s.curElem := rfl
@[simp] theorem fifoTake_curGap (b : Byte) : (fifoTake b s).curGap = s.curGap := rfl
@[simp] theorem fifoTake_waitCnt (b : Byte) : (fifoTake b s).waitCnt = s.waitCnt := rfl
@[simp] theorem fifoTake_led (b : Byte) : (fifoTake b s).led = s.led := rfl
@[simp] theorem fifoTake_fifoMem (b : Byte) : (fifoTake b s).fifoMem = s.fifoMem := rfl
@[simp] theorem fifoTake_wrPtr (b : Byte) : (fifoTake b s).wrPtr = s.wrPtr := rfl
@[simp] theorem fifoTake_trOvf (b : Byte) : (fifoTake b s).trOvf = s.trOvf := rfl
@[simp] theorem fifoTake_dropCnt (b : Byte) : (fifoTake b s).dropCnt = s.dropCnt := rfl
@[simp] theorem fifoTake_turns (b : Byte) : (fifoTake b s).turns = s.turns := rfl
@[simp] theorem fifoTake_bench (b : Byte) : (fifoTake b s).bench = s.bench := rfl
@[simp] theorem fifoTake_drainLeft (b : Byte) : (fifoTake b s).drainLeft = s.drainLeft := rfl
@[simp] theorem fifoTake_now (b : Byte) : (fifoTake b s).now = s.now := rfl
@[simp] theorem fifoTake_trace (b : Byte) : (fifoTake b s).trace = s.trace := rfl
@[simp] theorem fifoTake_lookupOut (b : Byte) : (fifoTake b s).lookupOut = s.lookupOut := rfl

/-! ### beginWrite -/

@[simp] theorem beginWrite_seqMem : (beginWrite s).seqMem = s.seqMem := rfl
@[simp] theorem beginWrite_seqOvf : (beginWrite s).seqOvf = s.seqOvf := rfl
@[simp] theorem beginWrite_pState : (beginWrite s).pState = s.pState := rfl
@[simp] theorem beginWrite_rdIdx : (beginWrite s).rdIdx = s.rdIdx := rfl
@[simp] theorem beginWrite_shreg : (beginWrite s).shreg = s.shreg := rfl
@[simp] theorem beginWrite_bitCnt : (beginWrite s).bitCnt = s.bitCnt := rfl
@[simp] theorem beginWrite_curElem : (beginWrite s).curElem = s.curElem := rfl
@[simp] theorem beginWrite_curGap : (beginWrite s).curGap = s.curGap := rfl
@[simp] theorem beginWrite_waitCnt : (beginWrite s).waitCnt = s.waitCnt := rfl
@[simp] theorem beginWrite_led : (beginWrite s).led = s.led := rfl
@[simp] theorem beginWrite_fifoMem : (beginWrite s).fifoMem = s.fifoMem := rfl
@[simp] theorem beginWrite_wrPtr : (beginWrite s).wrPtr = s.wrPtr := rfl
@[simp] theorem beginWrite_rdPtr : (beginWrite s).rdPtr = s.rdPtr := rfl
@[simp] theorem beginWrite_count : (beginWrite s).count = s.count := rfl
@[simp] theorem beginWrite_trOvf : (beginWrite s).trOvf = s.trOvf := rfl
@[simp] theorem beginWrite_dropCnt : (beginWrite s).dropCnt = s.dropCnt := rfl
@[simp] theorem beginWrite_turns : (beginWrite s).turns = s.turns := rfl
@[simp] theorem beginWrite_bench : (beginWrite s).bench = s.bench := rfl
@[simp] theorem beginWrite_drainLeft : (beginWrite s).drainLeft = s.drainLeft := rfl
@[simp] theorem beginWrite_now : (beginWrite s).now = s.now := rfl
@[simp] theorem beginWrite_trace : (beginWrite s).trace = s.trace := rfl
@[simp] theorem beginWrite_received : (beginWrite s).received = s.received := rfl
@[simp] theorem beginWrite_lookupOut : (beginWrite s).lookupOut = s.lookupOut := rfl

/-! ### letterOp -/

@[simp] theorem letterOp_phase (k : Letter) : (letterOp k s).phase = s.phase := by unfold letterOp; split <;> rfl
@[simp] theorem letterOp_pState (k : Letter) : (letterOp k s).pState = s.pState := by unfold letterOp; split <;> rfl
@[simp] theorem letterOp_rdIdx (k : Letter) : (letterOp k s).rdIdx = s.rdIdx := by unfold letterOp; split <;> rfl
@[simp] theorem letterOp_shreg (k : Letter) : (letterOp k s).shreg = s.shreg := by unfold letterOp; split <;> rfl
@[simp] theorem letterOp_bitCnt (k : Letter) : (letterOp k s).bitCnt = s.bitCnt := by unfold letterOp; split <;> rfl
@[simp] theorem letterOp_curElem (k : Letter) : (letterOp k s).curElem = s.curElem := by unfold letterOp; split <;> rfl
@[simp] theorem letterOp_curGap (k : Letter) : (letterOp k s).curGap = s.curGap := by unfold letterOp; split <;> rfl
@[simp] theorem letterOp_waitCnt (k : Letter) : (letterOp k s).waitCnt = s.waitCnt := by unfold letterOp; split <;> rfl
@[simp] theorem letterOp_led (k : Letter) : (letterOp k s).led = s.led := by unfold letterOp; split <;> rfl
@[simp] theorem letterOp_fifoMem (k : Letter) : (letterOp k s).fifoMem = s.fifoMem := by unfold letterOp; split <;> rfl
@[simp] theorem letterOp_wrPtr (k : Letter) : (letterOp k s).wrPtr = s.wrPtr := by unfold letterOp; split <;> rfl
@[simp] theorem letterOp_rdPtr (k : Letter) : (letterOp k s).rdPtr = s.rdPtr := by unfold letterOp; split <;> rfl
@[simp] theorem letterOp_count (k : Letter) : (letterOp k s).count = s.count := by unfold letterOp; split <;> rfl
@[simp] theorem letterOp_trOvf (k : Letter) : (letterOp k s).trOvf = s.trOvf := by unfold letterOp; split <;> rfl
@[simp] theorem letterOp_dropCnt (k : Letter) : (letterOp k s).dropCnt = s.dropCnt := by unfold letterOp; split <;> rfl
@[simp] theorem letterOp_turns (k : Letter) : (letterOp k s).turns = s.turns := by unfold letterOp; split <;> rfl
@[simp] theorem letterOp_bench (k : Letter) : (letterOp k s).bench = s.bench := by unfold letterOp; split <;> rfl
@[simp] theorem letterOp_drainLeft (k : Letter) : (letterOp k s).drainLeft = s.drainLeft := by unfold letterOp; split <;> rfl
@[simp] theorem letterOp_now (k : Letter) : (letterOp k s).now = s.now := by unfold letterOp; split <;> rfl
@[simp] theorem letterOp_trace (k : Letter) : (letterOp k s).trace = s.trace := by unfold letterOp; split <;> rfl
@[simp] theorem letterOp_received (k : Letter) : (letterOp k s).received = s.received := by unfold letterOp; split <;> rfl
@[simp] theorem letterOp_lookupOut (k : Letter) : (letterOp k s).lookupOut = s.lookupOut := by unfold letterOp; split <;> rfl

/-! ### spaceOp -/

@[simp] theorem spaceOp_phase : (spaceOp s).phase = s.phase := by unfold spaceOp; split <;> [rfl; (split <;> rfl)]
@[simp] theorem spaceOp_boundary : (spaceOp s).boundary = s.boundary := by unfold spaceOp; split <;> [rfl; (split <;> rfl)]
@[simp] theorem spaceOp_pState : (spaceOp s).pState = s.pState := by unfold spaceOp; split <;> [rfl; (split <;> rfl)]
@[simp] theorem spaceOp_rdIdx : (spaceOp s).rdIdx = s.rdIdx := by unfold spaceOp; split <;> [rfl; (split <;> rfl)]
@[simp] theorem spaceOp_shreg : (spaceOp s).shreg = s.shreg := by unfold spaceOp; split <;> [rfl; (split <;> rfl)]
@[simp] theorem spaceOp_bitCnt : (spaceOp s).bitCnt = s.bitCnt := by unfold spaceOp; split <;> [rfl; (split <;> rfl)]
@[simp] theorem spaceOp_curElem : (spaceOp s).curElem = s.curElem := by unfold spaceOp; split <;> [rfl; (split <;> rfl)]
@[simp] theorem spaceOp_curGap : (spaceOp s).curGap = s.curGap := by unfold spaceOp; split <;> [rfl; (split <;> rfl)]
@[simp] theorem spaceOp_waitCnt : (spaceOp s).waitCnt = s.waitCnt := by unfold spaceOp; split <;> [rfl; (split <;> rfl)]
@[simp] theorem spaceOp_led : (spaceOp s).led = s.led := by unfold spaceOp; split <;> [rfl; (split <;> rfl)]
@[simp] theorem spaceOp_fifoMem : (spaceOp s).fifoMem = s.fifoMem := by unfold spaceOp; split <;> [rfl; (split <;> rfl)]
@[simp] theorem spaceOp_wrPtr : (spaceOp s).wrPtr = s.wrPtr := by unfold spaceOp; split <;> [rfl; (split <;> rfl)]
@[simp] theorem spaceOp_rdPtr : (spaceOp s).rdPtr = s.rdPtr := by unfold spaceOp; split <;> [rfl; (split <;> rfl)]
@[simp] theorem spaceOp_count : (spaceOp s).count = s.count := by unfold spaceOp; split <;> [rfl; (split <;> rfl)]
@[simp] theorem spaceOp_trOvf : (spaceOp s).trOvf = s.trOvf := by unfold spaceOp; split <;> [rfl; (split <;> rfl)]
@[simp] theorem spaceOp_dropCnt : (spaceOp s).dropCnt = s.dropCnt := by unfold spaceOp; split <;> [rfl; (split <;> rfl)]
@[simp] theorem spaceOp_turns : (spaceOp s).turns = s.turns := by unfold spaceOp; split <;> [rfl; (split <;> rfl)]
@[simp] theorem spaceOp_bench : (spaceOp s).bench = s.bench := by unfold spaceOp; split <;> [rfl; (split <;> rfl)]
@[simp] theorem spaceOp_drainLeft : (spaceOp s).drainLeft = s.drainLeft := by unfold spaceOp; split <;> [rfl; (split <;> rfl)]
@[simp] theorem spaceOp_now : (spaceOp s).now = s.now := by unfold spaceOp; split <;> [rfl; (split <;> rfl)]
@[simp] theorem spaceOp_trace : (spaceOp s).trace = s.trace := by unfold spaceOp; split <;> [rfl; (split <;> rfl)]
@[simp] theorem spaceOp_received : (spaceOp s).received = s.received := by unfold spaceOp; split <;> [rfl; (split <;> rfl)]
@[simp] theorem spaceOp_lookupOut : (spaceOp s).lookupOut = s.lookupOut := by unfold spaceOp; split <;> [rfl; (split <;> rfl)]

/-! ### beginPlay -/

@[simp] theorem beginPlay_phase : (beginPlay s).phase = s.phase := rfl
@[simp] theorem beginPlay_pendingSpace : (beginPlay s).pendingSpace = s.pendingSpace := rfl
@[simp] theorem beginPlay_boundary : (beginPlay s).boundary = s.boundary := rfl
@[simp] theorem beginPlay_seqLen : (beginPlay s).seqLen = s.seqLen := rfl
@[simp] theorem beginPlay_seqMem : (beginPlay s).seqMem = s.seqMem := rfl
@[simp] theorem beginPlay_seqOvf : (beginPlay s).seqOvf = s.seqOvf := rfl
@[simp] theorem beginPlay_shreg : (beginPlay s).shreg = s.shreg := rfl
@[simp] theorem beginPlay_bitCnt : (beginPlay s).bitCnt = s.bitCnt := rfl
@[simp] theorem beginPlay_curElem : (beginPlay s).curElem = s.curElem := rfl
@[simp] theorem beginPlay_curGap : (beginPlay s).curGap = s.curGap := rfl
@[simp] theorem beginPlay_waitCnt : (beginPlay s).waitCnt = s.waitCnt := rfl
@[simp] theorem beginPlay_led : (beginPlay s).led = s.led := rfl
@[simp] theorem beginPlay_fifoMem : (beginPlay s).fifoMem = s.fifoMem := rfl
@[simp] theorem beginPlay_wrPtr : (beginPlay s).wrPtr = s.wrPtr := rfl
@[simp] theorem beginPlay_rdPtr : (beginPlay s).rdPtr = s.rdPtr := rfl
@[simp] theorem beginPlay_count : (beginPlay s).count = s.count := rfl
@[simp] theorem beginPlay_trOvf : (beginPlay s).trOvf = s.trOvf := rfl
@[simp] theorem beginPlay_dropCnt : (beginPlay s).dropCnt = s.dropCnt := rfl
@[simp] theorem beginPlay_turns : (beginPlay s).turns = s.turns := rfl
@[simp] theorem beginPlay_bench : (beginPlay s).bench = s.bench := rfl
@[simp] theorem beginPlay_drainLeft : (beginPlay s).drainLeft = s.drainLeft := rfl
@[simp] theorem beginPlay_now : (beginPlay s).now = s.now := rfl
@[simp] theorem beginPlay_trace : (beginPlay s).trace = s.trace := rfl
@[simp] theorem beginPlay_received : (beginPlay s).received = s.received := rfl
@[simp] theorem beginPlay_lookupOut : (beginPlay s).lookupOut = s.lookupOut := rfl

/-! ### endOp -/

@[simp] theorem endOp_pendingSpace : (endOp s).pendingSpace = s.pendingSpace := by unfold endOp; split <;> rfl
@[simp] theorem endOp_boundary : (endOp s).boundary = s.boundary := by unfold endOp; split <;> rfl
@[simp] theorem endOp_seqMem : (endOp s).seqMem = s.seqMem := by unfold endOp; split <;> rfl
@[simp] theorem endOp_seqOvf : (endOp s).seqOvf = s.seqOvf := by unfold endOp; split <;> rfl
@[simp] theorem endOp_shreg : (endOp s).shreg = s.shreg := by unfold endOp; split <;> rfl
@[simp] theorem endOp_bitCnt : (endOp s).bitCnt = s.bitCnt := by unfold endOp; split <;> rfl
@[simp] theorem endOp_curElem : (endOp s).curElem = s.curElem := by unfold endOp; split <;> rfl
@[simp] theorem endOp_curGap : (endOp s).curGap = s.curGap := by unfold endOp; split <;> rfl
@[simp] theorem endOp_waitCnt : (endOp s).waitCnt = s.waitCnt := by unfold endOp; split <;> rfl
@[simp] theorem endOp_led : (endOp s).led = s.led := by unfold endOp; split <;> rfl
@[simp] theorem endOp_fifoMem : (endOp s).fifoMem = s.fifoMem := by unfold endOp; split <;> rfl
@[simp] theorem endOp_wrPtr : (endOp s).wrPtr = s.wrPtr := by unfold endOp; split <;> rfl
@[simp] theorem endOp_rdPtr : (endOp s).rdPtr = s.rdPtr := by unfold endOp; split <;> rfl
@[simp] theorem endOp_count : (endOp s).count = s.count := by unfold endOp; split <;> rfl
@[simp] theorem endOp_trOvf : (endOp s).trOvf = s.trOvf := by unfold endOp; split <;> rfl
@[simp] theorem endOp_dropCnt : (endOp s).dropCnt = s.dropCnt := by unfold endOp; split <;> rfl
@[simp] theorem endOp_turns : (endOp s).turns = s.turns := by unfold endOp; split <;> rfl
@[simp] theorem endOp_bench : (endOp s).bench = s.bench := by unfold endOp; split <;> rfl
@[simp] theorem endOp_drainLeft : (endOp s).drainLeft = s.drainLeft := by unfold endOp; split <;> rfl
@[simp] theorem endOp_received : (endOp s).received = s.received := by unfold endOp; split <;> rfl
@[simp] theorem endOp_lookupOut : (endOp s).lookupOut = s.lookupOut := by unfold endOp; split <;> rfl

/-! ### fetchGapOp -/

@[simp] theorem fetchGapOp_phase : (fetchGapOp s).phase = s.phase := by simp [fetchGapOp]
@[simp] theorem fetchGapOp_pendingSpace : (fetchGapOp s).pendingSpace = s.pendingSpace := by simp [fetchGapOp]
@[simp] theorem fetchGapOp_boundary : (fetchGapOp s).boundary = s.boundary := by simp [fetchGapOp]
@[simp] theorem fetchGapOp_seqLen : (fetchGapOp s).seqLen = s.seqLen := by simp [fetchGapOp]
@[simp] theorem fetchGapOp_seqMem : (fetchGapOp s).seqMem = s.seqMem := by simp [fetchGapOp]
@[simp] theorem fetchGapOp_seqOvf : (fetchGapOp s).seqOvf = s.seqOvf := by simp [fetchGapOp]
@[simp] theorem fetchGapOp_rdIdx : (fetchGapOp s).rdIdx = s.rdIdx := by simp [fetchGapOp]
@[simp] theorem fetchGapOp_shreg : (fetchGapOp s).shreg = s.shreg := by simp [fetchGapOp]
@[simp] theorem fetchGapOp_bitCnt : (fetchGapOp s).bitCnt = s.bitCnt := by simp [fetchGapOp]
@[simp] theorem fetchGapOp_curElem : (fetchGapOp s).curElem = s.curElem := by simp [fetchGapOp]
@[simp] theorem fetchGapOp_led : (fetchGapOp s).led = s.led := by simp [fetchGapOp]
@[simp] theorem fetchGapOp_rdPtr : (fetchGapOp s).rdPtr = s.rdPtr := by simp [fetchGapOp]
@[simp] theorem fetchGapOp_turns : (fetchGapOp s).turns = s.turns := by simp [fetchGapOp]
@[simp] theorem fetchGapOp_bench : (fetchGapOp s).bench = s.bench := by simp [fetchGapOp]
@[simp] theorem fetchGapOp_drainLeft : (fetchGapOp s).drainLeft = s.drainLeft := by simp [fetchGapOp]
@[simp] theorem fetchGapOp_now : (fetchGapOp s).now = s.now := by simp [fetchGapOp]
@[simp] theorem fetchGapOp_received : (fetchGapOp s).received = s.received := by simp [fetchGapOp]
@[simp] theorem fetchGapOp_lookupOut : (fetchGapOp s).lookupOut = s.lookupOut := by simp [fetchGapOp]

/-! ### fetchLetterOp -/

@[simp] theorem fetchLetterOp_phase (c : Code) : (fetchLetterOp c s).phase = s.phase := rfl
@[simp] theorem fetchLetterOp_pendingSpace (c : Code) : (fetchLetterOp c s).pendingSpace = s.pendingSpace := rfl
@[simp] theorem fetchLetterOp_boundary (c : Code) : (fetchLetterOp c s).boundary = s.boundary := rfl
@[simp] theorem fetchLetterOp_seqLen (c : Code) : (fetchLetterOp c s).seqLen = s.seqLen := rfl
@[simp] theorem fetchLetterOp_seqMem (c : Code) : (fetchLetterOp c s).seqMem = s.seqMem := rfl
@[simp] theorem fetchLetterOp_seqOvf (c : Code) : (fetchLetterOp c s).seqOvf = s.seqOvf := rfl
@[simp] theorem fetchLetterOp_rdIdx (c : Code) : (fetchLetterOp c s).rdIdx = s.rdIdx := rfl
@[simp] theorem fetchLetterOp_curElem (c : Code) : (fetchLetterOp c s).curElem = s.curElem := rfl
@[simp] theorem fetchLetterOp_waitCnt (c : Code) : (fetchLetterOp c s).waitCnt = s.waitCnt := rfl
@[simp] theorem fetchLetterOp_led (c : Code) : (fetchLetterOp c s).led = s.led := rfl
@[simp] theorem fetchLetterOp_fifoMem (c : Code) : (fetchLetterOp c s).fifoMem = s.fifoMem := rfl
@[simp] theorem fetchLetterOp_wrPtr (c : Code) : (fetchLetterOp c s).wrPtr = s.wrPtr := rfl
@[simp] theorem fetchLetterOp_rdPtr (c : Code) : (fetchLetterOp c s).rdPtr = s.rdPtr := rfl
@[simp] theorem fetchLetterOp_count (c : Code) : (fetchLetterOp c s).count = s.count := rfl
@[simp] theorem fetchLetterOp_trOvf (c : Code) : (fetchLetterOp c s).trOvf = s.trOvf := rfl
@[simp] theorem fetchLetterOp_dropCnt (c : Code) : (fetchLetterOp c s).dropCnt = s.dropCnt := rfl
@[simp] theorem fetchLetterOp_turns (c : Code) : (fetchLetterOp c s).turns = s.turns := rfl
@[simp] theorem fetchLetterOp_bench (c : Code) : (fetchLetterOp c s).bench = s.bench := rfl
@[simp] theorem fetchLetterOp_drainLeft (c : Code) : (fetchLetterOp c s).drainLeft = s.drainLeft := rfl
@[simp] theorem fetchLetterOp_now (c : Code) : (fetchLetterOp c s).now = s.now := rfl
@[simp] theorem fetchLetterOp_trace (c : Code) : (fetchLetterOp c s).trace = s.trace := rfl
@[simp] theorem fetchLetterOp_received (c : Code) : (fetchLetterOp c s).received = s.received := rfl
@[simp] theorem fetchLetterOp_lookupOut (c : Code) : (fetchLetterOp c s).lookupOut = s.lookupOut := rfl

/-! ### startElement -/

@[simp] theorem startElement_phase (e : Elem) (sym : Symbol) (k : BitVec 2) : (startElement e sym k s).phase = s.phase := by simp [startElement]
@[simp] theorem startElement_pendingSpace (e : Elem) (sym : Symbol) (k : BitVec 2) : (startElement e sym k s).pendingSpace = s.pendingSpace := by simp [startElement]
@[simp] theorem startElement_boundary (e : Elem) (sym : Symbol) (k : BitVec 2) : (startElement e sym k s).boundary = s.boundary := by simp [startElement]
@[simp] theorem startElement_seqLen (e : Elem) (sym : Symbol) (k : BitVec 2) : (startElement e sym k s).seqLen = s.seqLen := by simp [startElement]
@[simp] theorem startElement_seqMem (e : Elem) (sym : Symbol) (k : BitVec 2) : (startElement e sym k s).seqMem = s.seqMem := by simp [startElement]
@[simp] theorem startElement_seqOvf (e : Elem) (sym : Symbol) (k : BitVec 2) : (startElement e sym k s).seqOvf = s.seqOvf := by simp [startElement]
@[simp] theorem startElement_rdIdx (e : Elem) (sym : Symbol) (k : BitVec 2) : (startElement e sym k s).rdIdx = s.rdIdx := by simp [startElement]
@[simp] theorem startElement_shreg (e : Elem) (sym : Symbol) (k : BitVec 2) : (startElement e sym k s).shreg = s.shreg := by simp [startElement]
@[simp] theorem startElement_bitCnt (e : Elem) (sym : Symbol) (k : BitVec 2) : (startElement e sym k s).bitCnt = s.bitCnt := by simp [startElement]
@[simp] theorem startElement_curGap (e : Elem) (sym : Symbol) (k : BitVec 2) : (startElement e sym k s).curGap = s.curGap := by simp [startElement]
@[simp] theorem startElement_rdPtr (e : Elem) (sym : Symbol) (k : BitVec 2) : (startElement e sym k s).rdPtr = s.rdPtr := by simp [startElement]
@[simp] theorem startElement_turns (e : Elem) (sym : Symbol) (k : BitVec 2) : (startElement e sym k s).turns = s.turns := by simp [startElement]
@[simp] theorem startElement_bench (e : Elem) (sym : Symbol) (k : BitVec 2) : (startElement e sym k s).bench = s.bench := by simp [startElement]
@[simp] theorem startElement_drainLeft (e : Elem) (sym : Symbol) (k : BitVec 2) : (startElement e sym k s).drainLeft = s.drainLeft := by simp [startElement]
@[simp] theorem startElement_now (e : Elem) (sym : Symbol) (k : BitVec 2) : (startElement e sym k s).now = s.now := by simp [startElement]
@[simp] theorem startElement_received (e : Elem) (sym : Symbol) (k : BitVec 2) : (startElement e sym k s).received = s.received := by simp [startElement]
@[simp] theorem startElement_lookupOut (e : Elem) (sym : Symbol) (k : BitVec 2) : (startElement e sym k s).lookupOut = s.lookupOut := by simp [startElement]

/-! ### advanceBits -/

@[simp] theorem advanceBits_phase (n : Nat) : (advanceBits n s).phase = s.phase := rfl
@[simp] theorem advanceBits_pendingSpace (n : Nat) : (advanceBits n s).pendingSpace = s.pendingSpace := rfl
@[simp] theorem advanceBits_boundary (n : Nat) : (advanceBits n s).boundary = s.boundary := rfl
@[simp] theorem advanceBits_seqLen (n : Nat) : (advanceBits n s).seqLen = s.seqLen := rfl
@[simp] theorem advanceBits_seqMem (n : Nat) : (advanceBits n s).seqMem = s.seqMem := rfl
@[simp] theorem advanceBits_seqOvf (n : Nat) : (advanceBits n s).seqOvf = s.seqOvf := rfl
@[simp] theorem advanceBits_rdIdx (n : Nat) : (advanceBits n s).rdIdx = s.rdIdx := rfl
@[simp] theorem advanceBits_curElem (n : Nat) : (advanceBits n s).curElem = s.curElem := rfl
@[simp] theorem advanceBits_curGap (n : Nat) : (advanceBits n s).curGap = s.curGap := rfl
@[simp] theorem advanceBits_waitCnt (n : Nat) : (advanceBits n s).waitCnt = s.waitCnt := rfl
@[simp] theorem advanceBits_led (n : Nat) : (advanceBits n s).led = s.led := rfl
@[simp] theorem advanceBits_fifoMem (n : Nat) : (advanceBits n s).fifoMem = s.fifoMem := rfl
@[simp] theorem advanceBits_wrPtr (n : Nat) : (advanceBits n s).wrPtr = s.wrPtr := rfl
@[simp] theorem advanceBits_rdPtr (n : Nat) : (advanceBits n s).rdPtr = s.rdPtr := rfl
@[simp] theorem advanceBits_count (n : Nat) : (advanceBits n s).count = s.count := rfl
@[simp] theorem advanceBits_trOvf (n : Nat) : (advanceBits n s).trOvf = s.trOvf := rfl
@[simp] theorem advanceBits_dropCnt (n : Nat) : (advanceBits n s).dropCnt = s.dropCnt := rfl
@[simp] theorem advanceBits_turns (n : Nat) : (advanceBits n s).turns = s.turns := rfl
@[simp] theorem advanceBits_bench (n : Nat) : (advanceBits n s).bench = s.bench := rfl
@[simp] theorem advanceBits_drainLeft (n : Nat) : (advanceBits n s).drainLeft = s.drainLeft := rfl
@[simp] theorem advanceBits_now (n : Nat) : (advanceBits n s).now = s.now := rfl
@[simp] theorem advanceBits_trace (n : Nat) : (advanceBits n s).trace = s.trace := rfl
@[simp] theorem advanceBits_received (n : Nat) : (advanceBits n s).received = s.received := rfl
@[simp] theorem advanceBits_lookupOut (n : Nat) : (advanceBits n s).lookupOut = s.lookupOut := rfl

/-! ### onExpiryOp -/

@[simp] theorem onExpiryOp_phase : (onExpiryOp s).phase = s.phase := rfl
@[simp] theorem onExpiryOp_pendingSpace : (onExpiryOp s).pendingSpace = s.pendingSpace := rfl
@[simp] theorem onExpiryOp_boundary : (onExpiryOp s).boundary = s.boundary := rfl
@[simp] theorem onExpiryOp_seqLen : (onExpiryOp s).seqLen = s.seqLen := rfl
@[simp] theorem onExpiryOp_seqMem : (onExpiryOp s).seqMem = s.seqMem := rfl
@[simp] theorem onExpiryOp_seqOvf : (onExpiryOp s).seqOvf = s.seqOvf := rfl
@[simp] theorem onExpiryOp_rdIdx : (onExpiryOp s).rdIdx = s.rdIdx := rfl
@[simp] theorem onExpiryOp_shreg : (onExpiryOp s).shreg = s.shreg := rfl
@[simp] theorem onExpiryOp_bitCnt : (onExpiryOp s).bitCnt = s.bitCnt := rfl
@[simp] theorem onExpiryOp_curElem : (onExpiryOp s).curElem = s.curElem := rfl
@[simp] theorem onExpiryOp_curGap : (onExpiryOp s).curGap = s.curGap := rfl
@[simp] theorem onExpiryOp_fifoMem : (onExpiryOp s).fifoMem = s.fifoMem := rfl
@[simp] theorem onExpiryOp_wrPtr : (onExpiryOp s).wrPtr = s.wrPtr := rfl
@[simp] theorem onExpiryOp_rdPtr : (onExpiryOp s).rdPtr = s.rdPtr := rfl
@[simp] theorem onExpiryOp_count : (onExpiryOp s).count = s.count := rfl
@[simp] theorem onExpiryOp_trOvf : (onExpiryOp s).trOvf = s.trOvf := rfl
@[simp] theorem onExpiryOp_dropCnt : (onExpiryOp s).dropCnt = s.dropCnt := rfl
@[simp] theorem onExpiryOp_turns : (onExpiryOp s).turns = s.turns := rfl
@[simp] theorem onExpiryOp_bench : (onExpiryOp s).bench = s.bench := rfl
@[simp] theorem onExpiryOp_drainLeft : (onExpiryOp s).drainLeft = s.drainLeft := rfl
@[simp] theorem onExpiryOp_now : (onExpiryOp s).now = s.now := rfl
@[simp] theorem onExpiryOp_received : (onExpiryOp s).received = s.received := rfl
@[simp] theorem onExpiryOp_lookupOut : (onExpiryOp s).lookupOut = s.lookupOut := rfl

/-! ### offExpiryOp -/

@[simp] theorem offExpiryOp_phase : (offExpiryOp s).phase = s.phase := rfl
@[simp] theorem offExpiryOp_pendingSpace : (offExpiryOp s).pendingSpace = s.pendingSpace := rfl
@[simp] theorem offExpiryOp_boundary : (offExpiryOp s).boundary = s.boundary := rfl
@[simp] theorem offExpiryOp_seqLen : (offExpiryOp s).seqLen = s.seqLen := rfl
@[simp] theorem offExpiryOp_seqMem : (offExpiryOp s).seqMem = s.seqMem := rfl
@[simp] theorem offExpiryOp_seqOvf : (offExpiryOp s).seqOvf = s.seqOvf := rfl
@[simp] theorem offExpiryOp_rdIdx : (offExpiryOp s).rdIdx = s.rdIdx := rfl
@[simp] theorem offExpiryOp_curElem : (offExpiryOp s).curElem = s.curElem := rfl
@[simp] theorem offExpiryOp_curGap : (offExpiryOp s).curGap = s.curGap := rfl
@[simp] theorem offExpiryOp_waitCnt : (offExpiryOp s).waitCnt = s.waitCnt := rfl
@[simp] theorem offExpiryOp_led : (offExpiryOp s).led = s.led := rfl
@[simp] theorem offExpiryOp_fifoMem : (offExpiryOp s).fifoMem = s.fifoMem := rfl
@[simp] theorem offExpiryOp_wrPtr : (offExpiryOp s).wrPtr = s.wrPtr := rfl
@[simp] theorem offExpiryOp_rdPtr : (offExpiryOp s).rdPtr = s.rdPtr := rfl
@[simp] theorem offExpiryOp_count : (offExpiryOp s).count = s.count := rfl
@[simp] theorem offExpiryOp_trOvf : (offExpiryOp s).trOvf = s.trOvf := rfl
@[simp] theorem offExpiryOp_dropCnt : (offExpiryOp s).dropCnt = s.dropCnt := rfl
@[simp] theorem offExpiryOp_turns : (offExpiryOp s).turns = s.turns := rfl
@[simp] theorem offExpiryOp_bench : (offExpiryOp s).bench = s.bench := rfl
@[simp] theorem offExpiryOp_drainLeft : (offExpiryOp s).drainLeft = s.drainLeft := rfl
@[simp] theorem offExpiryOp_now : (offExpiryOp s).now = s.now := rfl
@[simp] theorem offExpiryOp_trace : (offExpiryOp s).trace = s.trace := rfl
@[simp] theorem offExpiryOp_received : (offExpiryOp s).received = s.received := rfl
@[simp] theorem offExpiryOp_lookupOut : (offExpiryOp s).lookupOut = s.lookupOut := rfl

/-! ### toNextOp -/

@[simp] theorem toNextOp_phase : (toNextOp s).phase = s.phase := rfl
@[simp] theorem toNextOp_pendingSpace : (toNextOp s).pendingSpace = s.pendingSpace := rfl
@[simp] theorem toNextOp_boundary : (toNextOp s).boundary = s.boundary := rfl
@[simp] theorem toNextOp_seqLen : (toNextOp s).seqLen = s.seqLen := rfl
@[simp] theorem toNextOp_seqMem : (toNextOp s).seqMem = s.seqMem := rfl
@[simp] theorem toNextOp_seqOvf : (toNextOp s).seqOvf = s.seqOvf := rfl
@[simp] theorem toNextOp_rdIdx : (toNextOp s).rdIdx = s.rdIdx := rfl
@[simp] theorem toNextOp_shreg : (toNextOp s).shreg = s.shreg := rfl
@[simp] theorem toNextOp_bitCnt : (toNextOp s).bitCnt = s.bitCnt := rfl
@[simp] theorem toNextOp_curElem : (toNextOp s).curElem = s.curElem := rfl
@[simp] theorem toNextOp_curGap : (toNextOp s).curGap = s.curGap := rfl
@[simp] theorem toNextOp_waitCnt : (toNextOp s).waitCnt = s.waitCnt := rfl
@[simp] theorem toNextOp_led : (toNextOp s).led = s.led := rfl
@[simp] theorem toNextOp_fifoMem : (toNextOp s).fifoMem = s.fifoMem := rfl
@[simp] theorem toNextOp_wrPtr : (toNextOp s).wrPtr = s.wrPtr := rfl
@[simp] theorem toNextOp_rdPtr : (toNextOp s).rdPtr = s.rdPtr := rfl
@[simp] theorem toNextOp_count : (toNextOp s).count = s.count := rfl
@[simp] theorem toNextOp_trOvf : (toNextOp s).trOvf = s.trOvf := rfl
@[simp] theorem toNextOp_dropCnt : (toNextOp s).dropCnt = s.dropCnt := rfl
@[simp] theorem toNextOp_turns : (toNextOp s).turns = s.turns := rfl
@[simp] theorem toNextOp_bench : (toNextOp s).bench = s.bench := rfl
@[simp] theorem toNextOp_drainLeft : (toNextOp s).drainLeft = s.drainLeft := rfl
@[simp] theorem toNextOp_now : (toNextOp s).now = s.now := rfl
@[simp] theorem toNextOp_trace : (toNextOp s).trace = s.trace := rfl
@[simp] theorem toNextOp_received : (toNextOp s).received = s.received := rfl
@[simp] theorem toNextOp_lookupOut : (toNextOp s).lookupOut = s.lookupOut := rfl

/-! ### nextCodeOp -/

@[simp] theorem nextCodeOp_phase : (nextCodeOp s).phase = s.phase := rfl
@[simp] theorem nextCodeOp_pendingSpace : (nextCodeOp s).pendingSpace = s.pendingSpace := rfl
@[simp] theorem nextCodeOp_boundary : (nextCodeOp s).boundary = s.boundary := rfl
@[simp] theorem nextCodeOp_seqLen : (nextCodeOp s).seqLen = s.seqLen := rfl
@[simp] theorem nextCodeOp_seqMem : (nextCodeOp s).seqMem = s.seqMem := rfl
@[simp] theorem nextCodeOp_seqOvf : (nextCodeOp s).seqOvf = s.seqOvf := rfl
@[simp] theorem nextCodeOp_shreg : (nextCodeOp s).shreg = s.shreg := rfl
@[simp] theorem nextCodeOp_bitCnt : (nextCodeOp s).bitCnt = s.bitCnt := rfl
@[simp] theorem nextCodeOp_curElem : (nextCodeOp s).curElem = s.curElem := rfl
@[simp] theorem nextCodeOp_curGap : (nextCodeOp s).curGap = s.curGap := rfl
@[simp] theorem nextCodeOp_waitCnt : (nextCodeOp s).waitCnt = s.waitCnt := rfl
@[simp] theorem nextCodeOp_led : (nextCodeOp s).led = s.led := rfl
@[simp] theorem nextCodeOp_fifoMem : (nextCodeOp s).fifoMem = s.fifoMem := rfl
@[simp] theorem nextCodeOp_wrPtr : (nextCodeOp s).wrPtr = s.wrPtr := rfl
@[simp] theorem nextCodeOp_rdPtr : (nextCodeOp s).rdPtr = s.rdPtr := rfl
@[simp] theorem nextCodeOp_count : (nextCodeOp s).count = s.count := rfl
@[simp] theorem nextCodeOp_trOvf : (nextCodeOp s).trOvf = s.trOvf := rfl
@[simp] theorem nextCodeOp_dropCnt : (nextCodeOp s).dropCnt = s.dropCnt := rfl
@[simp] theorem nextCodeOp_turns : (nextCodeOp s).turns = s.turns := rfl
@[simp] theorem nextCodeOp_bench : (nextCodeOp s).bench = s.bench := rfl
@[simp] theorem nextCodeOp_drainLeft : (nextCodeOp s).drainLeft = s.drainLeft := rfl
@[simp] theorem nextCodeOp_now : (nextCodeOp s).now = s.now := rfl
@[simp] theorem nextCodeOp_trace : (nextCodeOp s).trace = s.trace := rfl
@[simp] theorem nextCodeOp_received : (nextCodeOp s).received = s.received := rfl
@[simp] theorem nextCodeOp_lookupOut : (nextCodeOp s).lookupOut = s.lookupOut := rfl

/-! ### nextLetterOp -/

@[simp] theorem nextLetterOp_phase : (nextLetterOp s).phase = s.phase := by simp [nextLetterOp]
@[simp] theorem nextLetterOp_pendingSpace : (nextLetterOp s).pendingSpace = s.pendingSpace := by simp [nextLetterOp]
@[simp] theorem nextLetterOp_boundary : (nextLetterOp s).boundary = s.boundary := by simp [nextLetterOp]
@[simp] theorem nextLetterOp_seqLen : (nextLetterOp s).seqLen = s.seqLen := by simp [nextLetterOp]
@[simp] theorem nextLetterOp_seqMem : (nextLetterOp s).seqMem = s.seqMem := by simp [nextLetterOp]
@[simp] theorem nextLetterOp_seqOvf : (nextLetterOp s).seqOvf = s.seqOvf := by simp [nextLetterOp]
@[simp] theorem nextLetterOp_rdIdx : (nextLetterOp s).rdIdx = s.rdIdx := by simp [nextLetterOp]
@[simp] theorem nextLetterOp_shreg : (nextLetterOp s).shreg = s.shreg := by simp [nextLetterOp]
@[simp] theorem nextLetterOp_bitCnt : (nextLetterOp s).bitCnt = s.bitCnt := by simp [nextLetterOp]
@[simp] theorem nextLetterOp_curElem : (nextLetterOp s).curElem = s.curElem := by simp [nextLetterOp]
@[simp] theorem nextLetterOp_curGap : (nextLetterOp s).curGap = s.curGap := by simp [nextLetterOp]
@[simp] theorem nextLetterOp_led : (nextLetterOp s).led = s.led := by simp [nextLetterOp]
@[simp] theorem nextLetterOp_rdPtr : (nextLetterOp s).rdPtr = s.rdPtr := by simp [nextLetterOp]
@[simp] theorem nextLetterOp_turns : (nextLetterOp s).turns = s.turns := by simp [nextLetterOp]
@[simp] theorem nextLetterOp_bench : (nextLetterOp s).bench = s.bench := by simp [nextLetterOp]
@[simp] theorem nextLetterOp_drainLeft : (nextLetterOp s).drainLeft = s.drainLeft := by simp [nextLetterOp]
@[simp] theorem nextLetterOp_now : (nextLetterOp s).now = s.now := by simp [nextLetterOp]
@[simp] theorem nextLetterOp_received : (nextLetterOp s).received = s.received := by simp [nextLetterOp]
@[simp] theorem nextLetterOp_lookupOut : (nextLetterOp s).lookupOut = s.lookupOut := by simp [nextLetterOp]

/-! ### nextLastOp -/

@[simp] theorem nextLastOp_pendingSpace : (nextLastOp s).pendingSpace = s.pendingSpace := by simp [nextLastOp]
@[simp] theorem nextLastOp_boundary : (nextLastOp s).boundary = s.boundary := by simp [nextLastOp]
@[simp] theorem nextLastOp_seqLen : (nextLastOp s).seqLen = s.seqLen := by simp [nextLastOp]
@[simp] theorem nextLastOp_seqMem : (nextLastOp s).seqMem = s.seqMem := by simp [nextLastOp]
@[simp] theorem nextLastOp_seqOvf : (nextLastOp s).seqOvf = s.seqOvf := by simp [nextLastOp]
@[simp] theorem nextLastOp_rdIdx : (nextLastOp s).rdIdx = s.rdIdx := by simp [nextLastOp]
@[simp] theorem nextLastOp_shreg : (nextLastOp s).shreg = s.shreg := by simp [nextLastOp]
@[simp] theorem nextLastOp_bitCnt : (nextLastOp s).bitCnt = s.bitCnt := by simp [nextLastOp]
@[simp] theorem nextLastOp_curElem : (nextLastOp s).curElem = s.curElem := by simp [nextLastOp]
@[simp] theorem nextLastOp_curGap : (nextLastOp s).curGap = s.curGap := by simp [nextLastOp]
@[simp] theorem nextLastOp_waitCnt : (nextLastOp s).waitCnt = s.waitCnt := by simp [nextLastOp]
@[simp] theorem nextLastOp_led : (nextLastOp s).led = s.led := by simp [nextLastOp]
@[simp] theorem nextLastOp_rdPtr : (nextLastOp s).rdPtr = s.rdPtr := by simp [nextLastOp]
@[simp] theorem nextLastOp_turns : (nextLastOp s).turns = s.turns := by simp [nextLastOp]
@[simp] theorem nextLastOp_bench : (nextLastOp s).bench = s.bench := by simp [nextLastOp]
@[simp] theorem nextLastOp_drainLeft : (nextLastOp s).drainLeft = s.drainLeft := by simp [nextLastOp]
@[simp] theorem nextLastOp_now : (nextLastOp s).now = s.now := by simp [nextLastOp]
@[simp] theorem nextLastOp_received : (nextLastOp s).received = s.received := by simp [nextLastOp]
@[simp] theorem nextLastOp_lookupOut : (nextLastOp s).lookupOut = s.lookupOut := by simp [nextLastOp]

/-! ### expiryOp -/

@[simp] theorem expiryOp_phase : (expiryOp s).phase = s.phase := by unfold expiryOp; split <;> rfl
@[simp] theorem expiryOp_pendingSpace : (expiryOp s).pendingSpace = s.pendingSpace := by unfold expiryOp; split <;> rfl
@[simp] theorem expiryOp_boundary : (expiryOp s).boundary = s.boundary := by unfold expiryOp; split <;> rfl
@[simp] theorem expiryOp_seqLen : (expiryOp s).seqLen = s.seqLen := by unfold expiryOp; split <;> rfl
@[simp] theorem expiryOp_seqMem : (expiryOp s).seqMem = s.seqMem := by unfold expiryOp; split <;> rfl
@[simp] theorem expiryOp_seqOvf : (expiryOp s).seqOvf = s.seqOvf := by unfold expiryOp; split <;> rfl
@[simp] theorem expiryOp_curElem : (expiryOp s).curElem = s.curElem := by unfold expiryOp; split <;> rfl
@[simp] theorem expiryOp_curGap : (expiryOp s).curGap = s.curGap := by unfold expiryOp; split <;> rfl
@[simp] theorem expiryOp_fifoMem : (expiryOp s).fifoMem = s.fifoMem := by unfold expiryOp; split <;> rfl
@[simp] theorem expiryOp_wrPtr : (expiryOp s).wrPtr = s.wrPtr := by unfold expiryOp; split <;> rfl
@[simp] theorem expiryOp_rdPtr : (expiryOp s).rdPtr = s.rdPtr := by unfold expiryOp; split <;> rfl
@[simp] theorem expiryOp_count : (expiryOp s).count = s.count := by unfold expiryOp; split <;> rfl
@[simp] theorem expiryOp_trOvf : (expiryOp s).trOvf = s.trOvf := by unfold expiryOp; split <;> rfl
@[simp] theorem expiryOp_dropCnt : (expiryOp s).dropCnt = s.dropCnt := by unfold expiryOp; split <;> rfl
@[simp] theorem expiryOp_turns : (expiryOp s).turns = s.turns := by unfold expiryOp; split <;> rfl
@[simp] theorem expiryOp_bench : (expiryOp s).bench = s.bench := by unfold expiryOp; split <;> rfl
@[simp] theorem expiryOp_drainLeft : (expiryOp s).drainLeft = s.drainLeft := by unfold expiryOp; split <;> rfl
@[simp] theorem expiryOp_now : (expiryOp s).now = s.now := by unfold expiryOp; split <;> rfl
@[simp] theorem expiryOp_received : (expiryOp s).received = s.received := by unfold expiryOp; split <;> rfl
@[simp] theorem expiryOp_lookupOut : (expiryOp s).lookupOut = s.lookupOut := by unfold expiryOp; split <;> rfl

/-! ### tickOp -/

@[simp] theorem tickOp_phase : (tickOp s).phase = s.phase := by unfold tickOp; split <;> [(split <;> [rfl; simp]); rfl]
@[simp] theorem tickOp_pendingSpace : (tickOp s).pendingSpace = s.pendingSpace := by unfold tickOp; split <;> [(split <;> [rfl; simp]); rfl]
@[simp] theorem tickOp_boundary : (tickOp s).boundary = s.boundary := by unfold tickOp; split <;> [(split <;> [rfl; simp]); rfl]
@[simp] theorem tickOp_seqLen : (tickOp s).seqLen = s.seqLen := by unfold tickOp; split <;> [(split <;> [rfl; simp]); rfl]
@[simp] theorem tickOp_seqMem : (tickOp s).seqMem = s.seqMem := by unfold tickOp; split <;> [(split <;> [rfl; simp]); rfl]
@[simp] theorem tickOp_seqOvf : (tickOp s).seqOvf = s.seqOvf := by unfold tickOp; split <;> [(split <;> [rfl; simp]); rfl]
@[simp] theorem tickOp_curElem : (tickOp s).curElem = s.curElem := by unfold tickOp; split <;> [(split <;> [rfl; simp]); rfl]
@[simp] theorem tickOp_curGap : (tickOp s).curGap = s.curGap := by unfold tickOp; split <;> [(split <;> [rfl; simp]); rfl]
@[simp] theorem tickOp_fifoMem : (tickOp s).fifoMem = s.fifoMem := by unfold tickOp; split <;> [(split <;> [rfl; simp]); rfl]
@[simp] theorem tickOp_wrPtr : (tickOp s).wrPtr = s.wrPtr := by unfold tickOp; split <;> [(split <;> [rfl; simp]); rfl]
@[simp] theorem tickOp_rdPtr : (tickOp s).rdPtr = s.rdPtr := by unfold tickOp; split <;> [(split <;> [rfl; simp]); rfl]
@[simp] theorem tickOp_count : (tickOp s).count = s.count := by unfold tickOp; split <;> [(split <;> [rfl; simp]); rfl]
@[simp] theorem tickOp_trOvf : (tickOp s).trOvf = s.trOvf := by unfold tickOp; split <;> [(split <;> [rfl; simp]); rfl]
@[simp] theorem tickOp_dropCnt : (tickOp s).dropCnt = s.dropCnt := by unfold tickOp; split <;> [(split <;> [rfl; simp]); rfl]
@[simp] theorem tickOp_turns : (tickOp s).turns = s.turns := by unfold tickOp; split <;> [(split <;> [rfl; simp]); rfl]
@[simp] theorem tickOp_bench : (tickOp s).bench = s.bench := by unfold tickOp; split <;> [(split <;> [rfl; simp]); rfl]
@[simp] theorem tickOp_drainLeft : (tickOp s).drainLeft = s.drainLeft := by unfold tickOp; split <;> [(split <;> [rfl; simp]); rfl]
@[simp] theorem tickOp_received : (tickOp s).received = s.received := by unfold tickOp; split <;> [(split <;> [rfl; simp]); rfl]
@[simp] theorem tickOp_lookupOut : (tickOp s).lookupOut = s.lookupOut := by unfold tickOp; split <;> [(split <;> [rfl; simp]); rfl]

/-! ### The fields the updates set -/

@[simp] theorem emit_trace (e : Event) : (emit e s).trace = s.trace ++ [⟨s.now, e⟩] := rfl
@[simp] theorem emitOn_led : (emitOn s).led = true := rfl
@[simp] theorem emitOn_trace : (emitOn s).trace = s.trace ++ [⟨s.now, .on⟩] := rfl
@[simp] theorem emitOff_led : (emitOff s).led = false := rfl
@[simp] theorem emitOff_trace : (emitOff s).trace = s.trace ++ [⟨s.now, .off⟩] := rfl
@[simp] theorem hold_waitCnt (k : BitVec 2) : (hold k s).waitCnt = k := rfl
@[simp] theorem fifoStore_wrPtr (sym : Symbol) : (fifoStore sym s).wrPtr = s.wrPtr + 1 := rfl
@[simp] theorem fifoStore_count (sym : Symbol) : (fifoStore sym s).count = s.count + 1 := rfl
@[simp] theorem fifoStore_fifoMem (sym : Symbol) :
    (fifoStore sym s).fifoMem = memWrite s.fifoMem s.wrPtr.toNat (symbolByte sym) := rfl
@[simp] theorem emitAppend_trace (sym : Symbol) :
    (emitAppend sym s).trace = s.trace ++ [⟨s.now, .append sym⟩] := by
  unfold emitAppend; cases appendResult s <;> rfl
@[simp] theorem fifoTake_rdPtr (b : Byte) : (fifoTake b s).rdPtr = s.rdPtr + 1 := rfl
@[simp] theorem fifoTake_count (b : Byte) : (fifoTake b s).count = s.count - 1 := rfl
@[simp] theorem fifoTake_received (b : Byte) : (fifoTake b s).received = s.received ++ [b] := rfl
@[simp] theorem beginWrite_phase : (beginWrite s).phase = .build := rfl
@[simp] theorem beginWrite_seqLen : (beginWrite s).seqLen = 0 := rfl
@[simp] theorem beginWrite_boundary : (beginWrite s).boundary = 0 := rfl
@[simp] theorem beginWrite_pendingSpace : (beginWrite s).pendingSpace = true := rfl
@[simp] theorem beginPlay_rdIdx : (beginPlay s).rdIdx = 0 := rfl
@[simp] theorem beginPlay_pState : (beginPlay s).pState = .pFetch := rfl
@[simp] theorem endOp_seqLen : (endOp s).seqLen = s.boundary := by unfold endOp; split <;> rfl
@[simp] theorem endOp_now : (endOp s).now = 0 := by unfold endOp; split <;> rfl
@[simp] theorem fetchGapOp_curGap : (fetchGapOp s).curGap = true := by simp [fetchGapOp]
@[simp] theorem fetchGapOp_waitCnt : (fetchGapOp s).waitCnt = wordGapUnits := by simp [fetchGapOp]
@[simp] theorem fetchGapOp_pState : (fetchGapOp s).pState = .pWgap := rfl
@[simp] theorem fetchGapOp_trace :
    (fetchGapOp s).trace = s.trace ++ [⟨s.now, .append .space⟩] := by simp [fetchGapOp]
@[simp] theorem fetchLetterOp_curGap (c : Code) : (fetchLetterOp c s).curGap = false := rfl
@[simp] theorem fetchLetterOp_shreg (c : Code) : (fetchLetterOp c s).shreg = c := rfl
@[simp] theorem fetchLetterOp_bitCnt (c : Code) : (fetchLetterOp c s).bitCnt = 0 := rfl
@[simp] theorem fetchLetterOp_pState (c : Code) : (fetchLetterOp c s).pState = .pWalk := rfl
@[simp] theorem startElement_led (e : Elem) (sym : Symbol) (k : BitVec 2) : (startElement e sym k s).led = true := by
  simp [startElement]
@[simp] theorem startElement_curElem (e : Elem) (sym : Symbol) (k : BitVec 2) :
    (startElement e sym k s).curElem = e := rfl
@[simp] theorem startElement_waitCnt (e : Elem) (sym : Symbol) (k : BitVec 2) :
    (startElement e sym k s).waitCnt = k := rfl
@[simp] theorem startElement_pState (e : Elem) (sym : Symbol) (k : BitVec 2) :
    (startElement e sym k s).pState = .pOn := rfl
@[simp] theorem startElement_trace (e : Elem) (sym : Symbol) (k : BitVec 2) :
    (startElement e sym k s).trace = s.trace ++ [⟨s.now, .on⟩, ⟨s.now, .append sym⟩] := by
  simp [startElement]
@[simp] theorem advanceBits_shreg (n : Nat) : (advanceBits n s).shreg = shl16 s.shreg n := rfl
@[simp] theorem advanceBits_bitCnt (n : Nat) : (advanceBits n s).bitCnt = s.bitCnt + BitVec.ofNat 5 n := rfl
@[simp] theorem advanceBits_pState (n : Nat) : (advanceBits n s).pState = .pWalk := rfl
@[simp] theorem onExpiryOp_led : (onExpiryOp s).led = false := rfl
@[simp] theorem onExpiryOp_trace : (onExpiryOp s).trace = s.trace ++ [⟨s.now, .off⟩] := rfl
@[simp] theorem onExpiryOp_waitCnt : (onExpiryOp s).waitCnt = elemGapUnits := rfl
@[simp] theorem onExpiryOp_pState : (onExpiryOp s).pState = .pOff := rfl
@[simp] theorem toNextOp_pState : (toNextOp s).pState = .pNext := rfl
@[simp] theorem nextCodeOp_rdIdx : (nextCodeOp s).rdIdx = s.rdIdx + 1 := rfl
@[simp] theorem nextCodeOp_pState : (nextCodeOp s).pState = .pFetch := rfl
@[simp] theorem nextLetterOp_waitCnt : (nextLetterOp s).waitCnt = letterGapUnits := rfl
@[simp] theorem nextLetterOp_pState : (nextLetterOp s).pState = .pLgap := rfl
@[simp] theorem nextLetterOp_trace :
    (nextLetterOp s).trace = s.trace ++ [⟨s.now, .append .space⟩] := by simp [nextLetterOp]
@[simp] theorem nextLastOp_phase : (nextLastOp s).phase = .idle := rfl
@[simp] theorem nextLastOp_pState : (nextLastOp s).pState = .pIdle := rfl
@[simp] theorem nextLastOp_trace :
    (nextLastOp s).trace = s.trace ++ [⟨s.now, .append .newline⟩, ⟨s.now, .done⟩] := by
  simp [nextLastOp]
@[simp] theorem tickOp_now : (tickOp s).now = s.now + 1 := by
  unfold tickOp; split <;> [(split <;> [rfl; simp]); rfl]

end Sys2Proof.Machine
end

