-- ==== Sys2Proof/Laws/Ops.lean ====
section
/-! SUPPORT. For each shared operation, once, everything it can do. -/

namespace Sys2Proof.Machine

/-! ## The transcript FIFO -/

theorem fifoFull_iff {s : State} : fifoFull s = true ↔ 512 ≤ s.count.toNat := by simp [fifoFull]

theorem fifoEmpty_iff {s : State} : fifoEmpty s = true ↔ s.count = 0 := by simp [fifoEmpty]

/-- APPEND with room stores the symbol (R233). -/
theorem emitAppend_of_room {s : State} (sym : Symbol) (h : s.count.toNat < 512) :
    emitAppend sym s = fifoStore sym (emit (.append sym) s) := by
  simp [emitAppend, appendResult, fifoFull, Nat.not_le.mpr h]

/-- APPEND into a full buffer drops the symbol and records TranscriptOverflow (R234). -/
theorem emitAppend_of_full {s : State} (sym : Symbol) (h : 512 ≤ s.count.toNat) :
    emitAppend sym s = raise .transcriptOverflow (emit (.append sym) s) := by
  simp [emitAppend, appendResult, fifoFull, h]

/-- APPEND does one of the two. -/
theorem emitAppend_cases (sym : Symbol) (s : State) :
    (s.count.toNat < 512 ∧ emitAppend sym s = fifoStore sym (emit (.append sym) s)) ∨
      (512 ≤ s.count.toNat ∧ emitAppend sym s = raise .transcriptOverflow (emit (.append sym) s)) := by
  rcases Nat.lt_or_ge s.count.toNat 512 with h | h
  · exact .inl ⟨h, emitAppend_of_room sym h⟩
  · exact .inr ⟨h, emitAppend_of_full sym h⟩

/-- A read of the FIFO answers a next state exactly when the oldest entry is written. -/
theorem whenReadable_next {k : State → State} {s t : State} :
    whenReadable k s = .next t ↔ ∃ b, memRead s.fifoMem s.rdPtr.toNat = some b ∧ t = k (fifoTake b s) := by
  unfold whenReadable
  cases memRead s.fifoMem s.rdPtr.toNat <;> simp [eq_comm]

/-! ## The sequence builder -/

theorem seqFull_iff {s : State} : seqFull s = true ↔ 512 ≤ s.seqLen.toNat := by simp [seqFull]

/-- LETTER either drops the code and records SequenceOverflow (R167) or appends it (R164). -/
theorem letterOp_cases (k : Letter) (s : State) :
    (512 ≤ s.seqLen.toNat ∧ letterOp k s = { s with seqOvf := true }) ∨
      (s.seqLen.toNat < 512 ∧ letterOp k s =
        { s with
          seqMem := memWrite s.seqMem s.seqLen.toNat (romWord k)
          seqLen := s.seqLen + 1
          pendingSpace := false
          boundary := s.seqLen + 1 }) := by
  rcases Nat.lt_or_ge s.seqLen.toNat 512 with h | h
  · exact .inr ⟨h, by simp [letterOp, seqFull, Nat.not_le.mpr h]⟩
  · exact .inl ⟨h, by simp [letterOp, seqFull, h, raise]⟩

/-- SPACE does nothing, or drops the gap, or appends it (R165, R167). -/
theorem spaceOp_cases (s : State) :
    (s.pendingSpace = true ∧ spaceOp s = s) ∨
      (s.pendingSpace = false ∧ 512 ≤ s.seqLen.toNat ∧ spaceOp s = { s with seqOvf := true }) ∨
      (s.pendingSpace = false ∧ s.seqLen.toNat < 512 ∧ spaceOp s =
        { s with
          seqMem := memWrite s.seqMem s.seqLen.toNat gapCode
          seqLen := s.seqLen + 1
          pendingSpace := true }) := by
  cases hp : s.pendingSpace with
  | true => exact .inl ⟨rfl, by simp [spaceOp, hp]⟩
  | false =>
    rcases Nat.lt_or_ge s.seqLen.toNat 512 with h | h
    · exact .inr (.inr ⟨rfl, h, by simp [spaceOp, hp, seqFull, Nat.not_le.mpr h]⟩)
    · exact .inr (.inl ⟨rfl, h, by simp [spaceOp, hp, seqFull, h, raise]⟩)

@[simp] theorem ignoreOp_eq (s : State) : ignoreOp s = s := rfl

/-- END completes an empty write or starts the play (R168). -/
theorem endOp_cases (s : State) :
    (s.boundary = 0 ∧ endOp s = emit .done { s with seqLen := s.boundary, now := 0, phase := .idle }) ∨
      (s.boundary ≠ 0 ∧
        endOp s = { s with seqLen := s.boundary, now := 0, phase := .play, rdIdx := 0, pState := .pFetch }) := by
  by_cases h : s.boundary = 0
  · exact .inl ⟨h, by rw [endOp, if_pos h]⟩
  · exact .inr ⟨h, by rw [endOp, if_neg h]; rfl⟩

@[simp] theorem textTransaction_idle {op : State → State} {s : State} (h : s.phase = .idle) :
    textTransaction op s = op (beginWrite s) := by simp [textTransaction, h]

@[simp] theorem textTransaction_build {op : State → State} {s : State} (h : s.phase = .build) :
    textTransaction op s = op s := by simp [textTransaction, h]

@[simp] theorem textTransaction_play {op : State → State} {s : State} (h : s.phase = .play) :
    textTransaction op s = s := by simp [textTransaction, h]

/-! ## Operations under a condition -/

@[simp] theorem whenEnabled_true {op : State → State} {s : State} : whenEnabled true op s = .next (op s) := rfl

@[simp] theorem whenEnabled_false {op : State → State} {s : State} : whenEnabled false op s = .next s := rfl

/-- An operation whose condition holds is performed. -/
theorem whenEnabled_of {b : Bool} {op : State → State} {s : State} (h : b = true) :
    whenEnabled b op s = .next (op s) := by subst h; rfl

/-- An operation whose condition does not hold changes nothing. -/
theorem whenEnabled_of_not {b : Bool} {op : State → State} {s : State} (h : ¬ b = true) :
    whenEnabled b op s = .next s := by cases b <;> simp_all

/-- An operation under a condition always answers a next state: the operation's or the state itself. -/
theorem whenEnabled_next {b : Bool} {op : State → State} {s t : State} :
    whenEnabled b op s = .next t ↔ (b = true ∧ t = op s) ∨ (b = false ∧ t = s) := by
  cases b <;> simp [eq_comm]

/-- The code at `rd_idx`, where it is a written entry. -/
theorem currentCode_ok {s : State} {c : Code} :
    currentCode s = .ok c ↔ s.rdIdx.toNat < 512 ∧ memRead s.seqMem s.rdIdx.toNat = some c := by
  unfold currentCode
  split
  · rename_i h; simp only [reduceCtorEq, false_iff]; omega
  · rename_i h
    cases memRead s.seqMem s.rdIdx.toNat <;> simp; omega

/-- A fetch answers a next state exactly when it is not at `P_FETCH`, or the code can be read. -/
theorem whenFetched_next {sel : Code → Bool} {op : Code → State → State} {s t : State} :
    whenFetched sel op s = .next t ↔
      (s.pState ≠ .pFetch ∧ t = s) ∨
        (s.pState = .pFetch ∧ ∃ c, currentCode s = .ok c ∧ t = if sel c then op c s else s) := by
  unfold whenFetched
  cases hp : s.pState <;> simp only [reduceCtorEq, ne_eq, not_false_eq_true, not_true_eq_false, true_and,
    false_and, or_false, false_or, Host.Outcome.next.injEq]
  case pFetch =>
    cases currentCode s with
    | error f => simp
    | ok c =>
      constructor
      · intro h; exact ⟨c, rfl, (Host.Outcome.next.inj h).symm⟩
      · rintro ⟨d, hd, rfl⟩; cases hd; rfl
  all_goals exact eq_comm

/-- A fetch never refuses. -/
theorem whenFetched_not_refused {sel : Code → Bool} {op : Code → State → State} {s : State} {r : Refusal} :
    whenFetched sel op s ≠ .refused r := by
  unfold whenFetched
  cases s.pState <;> simp
  cases currentCode s <;> simp

/-! ## The window -/

/-- The player is at window `w`. -/
theorem atWindow_iff {w : BitVec 3} {s : State} :
    atWindow w s = true ↔ s.pState = .pWalk ∧ s.bitCnt.toNat < 16 ∧ window s.shreg = w := by
  simp [atWindow, and_assoc]

end Sys2Proof.Machine
end

