-- ==== Sys2Proof/Laws/Exec.lean ====
section
/-! SUPPORT. What `exec` can do, once: the rows that differ in their letter only as one equation each, and the moves a
next state can come from. -/

namespace Sys2Proof.Machine

/-! ## The rows that differ in their letter only -/

theorem exec_upper (k : Letter) (s : State) :
    exec (.upper k) s = .next (textTransaction (letterOp k) s) := by
  fin_cases k <;> rfl

theorem exec_lower (k : Letter) (s : State) :
    exec (.lower k) s = .next (textTransaction (letterOp k) s) := by
  fin_cases k <;> rfl

theorem exec_code (k : Letter) (s : State) :
    exec (.code k) s = whenFetched (fun c => c == romWord k) fetchLetterOp s := by
  fin_cases k <;> rfl

/-- No ROM word is the word-gap code (R121). -/
theorem romWord_ne_gap (k : Letter) : romWord k ≠ gapCode := by
  fin_cases k <;> decide

/-- A case split over the instructions that takes the letters together. -/
theorem Instr_byLetter {P : Instr → Prop}
    (upper : ∀ k, P (.upper k)) (lower : ∀ k, P (.lower k)) (code : ∀ k, P (.code k))
    (byteWord : ∀ data : Byte, P (.byteWord data))
    (endWord : ∀ data : Byte, P (.endWord data))
    (space : P .space)
    (ignore : ∀ b : Byte, P (.ignore b))
    (gap : P .gap)
    (codeOther : ∀ c : Code, P (.codeOther c))
    (dash : P .dash)
    (dot10 : ∀ x : BitVec 1, P (.dot10 x))
    (dot110 : P .dot110)
    (pad : ∀ xx : BitVec 2, P (.pad xx))
    (symDot : P .symDot)
    (symDash : P .symDash)
    (symSpace : P .symSpace)
    (symNewline : P .symNewline)
    (lookup : ∀ idx : BitVec 5, P (.lookup idx))
    (writeStart : P .writeStart)
    (seqOverflow : P .seqOverflow)
    (playStart : P .playStart)
    (fetchLetter : P .fetchLetter)
    (walkEnd : P .walkEnd)
    (tick : P .tick)
    (onExpiry : P .onExpiry)
    (offExpiry : P .offExpiry)
    (wgapExpiry : P .wgapExpiry)
    (nextLetter : P .nextLetter)
    (nextGap : P .nextGap)
    (lgapExpiry : P .lgapExpiry)
    (nextLast : P .nextLast)
    (append : ∀ sym : Symbol, P (.append sym))
    (appendDrop : ∀ sym : Symbol, P (.appendDrop sym))
    (pop : P .pop)
    (drain : ∀ max : Nat, P (.drain max))
    (reset : P .reset) : ∀ i, P i := by
  intro i
  cases i with
  | byteWord data => exact byteWord data
  | endWord data => exact endWord data
  | upperA => exact upper 0
  | upperB => exact upper 1
  | upperC => exact upper 2
  | upperD => exact upper 3
  | upperE => exact upper 4
  | upperF => exact upper 5
  | upperG => exact upper 6
  | upperH => exact upper 7
  | upperI => exact upper 8
  | upperJ => exact upper 9
  | upperK => exact upper 10
  | upperL => exact upper 11
  | upperM => exact upper 12
  | upperN => exact upper 13
  | upperO => exact upper 14
  | upperP => exact upper 15
  | upperQ => exact upper 16
  | upperR => exact upper 17
  | upperS => exact upper 18
  | upperT => exact upper 19
  | upperU => exact upper 20
  | upperV => exact upper 21
  | upperW => exact upper 22
  | upperX => exact upper 23
  | upperY => exact upper 24
  | upperZ => exact upper 25
  | lowerA => exact lower 0
  | lowerB => exact lower 1
  | lowerC => exact lower 2
  | lowerD => exact lower 3
  | lowerE => exact lower 4
  | lowerF => exact lower 5
  | lowerG => exact lower 6
  | lowerH => exact lower 7
  | lowerI => exact lower 8
  | lowerJ => exact lower 9
  | lowerK => exact lower 10
  | lowerL => exact lower 11
  | lowerM => exact lower 12
  | lowerN => exact lower 13
  | lowerO => exact lower 14
  | lowerP => exact lower 15
  | lowerQ => exact lower 16
  | lowerR => exact lower 17
  | lowerS => exact lower 18
  | lowerT => exact lower 19
  | lowerU => exact lower 20
  | lowerV => exact lower 21
  | lowerW => exact lower 22
  | lowerX => exact lower 23
  | lowerY => exact lower 24
  | lowerZ => exact lower 25
  | space => exact space
  | ignore b => exact ignore b
  | gap => exact gap
  | codeA => exact code 0
  | codeB => exact code 1
  | codeC => exact code 2
  | codeD => exact code 3
  | codeE => exact code 4
  | codeF => exact code 5
  | codeG => exact code 6
  | codeH => exact code 7
  | codeI => exact code 8
  | codeJ => exact code 9
  | codeK => exact code 10
  | codeL => exact code 11
  | codeM => exact code 12
  | codeN => exact code 13
  | codeO => exact code 14
  | codeP => exact code 15
  | codeQ => exact code 16
  | codeR => exact code 17
  | codeS => exact code 18
  | codeT => exact code 19
  | codeU => exact code 20
  | codeV => exact code 21
  | codeW => exact code 22
  | codeX => exact code 23
  | codeY => exact code 24
  | codeZ => exact code 25
  | codeOther c => exact codeOther c
  | dash => exact dash
  | dot10 x => exact dot10 x
  | dot110 => exact dot110
  | pad xx => exact pad xx
  | symDot => exact symDot
  | symDash => exact symDash
  | symSpace => exact symSpace
  | symNewline => exact symNewline
  | lookup idx => exact lookup idx
  | writeStart => exact writeStart
  | seqOverflow => exact seqOverflow
  | playStart => exact playStart
  | fetchLetter => exact fetchLetter
  | walkEnd => exact walkEnd
  | tick => exact tick
  | onExpiry => exact onExpiry
  | offExpiry => exact offExpiry
  | wgapExpiry => exact wgapExpiry
  | nextLetter => exact nextLetter
  | nextGap => exact nextGap
  | lgapExpiry => exact lgapExpiry
  | nextLast => exact nextLast
  | append sym => exact append sym
  | appendDrop sym => exact appendDrop sym
  | pop => exact pop
  | drain max => exact drain max
  | reset => exact reset

/-! ## The moves -/

theorem textTransaction_eq {op : State → State} {s : State} (h : s.phase ≠ .play) :
    textTransaction op s = op (writeBegun s) := by
  unfold textTransaction writeBegun
  cases hp : s.phase
  · rfl
  · rfl
  · exact absurd hp h

/-- Every way a state can become the next one, with the instructions that can take it. -/
inductive Moves (s : State) : Instr → State → Prop where
  | stay (i : Instr) : Moves s i s
  | begin (h : s.phase = .idle) : Moves s .writeStart (beginWrite s)
  | letter (i : Instr) (k : Letter) (hi : writesSeqMem i) (h : s.phase ≠ .play) :
      Moves s i (letterOp k (writeBegun s))
  | space (i : Instr) (hi : writesSeqMem i) (h : s.phase ≠ .play) : Moves s i (spaceOp (writeBegun s))
  | ignore (i : Instr) (h : s.phase ≠ .play) : Moves s i (writeBegun s)
  | finish (d : Byte) (h : s.phase ≠ .play) : Moves s (.endWord d) (endOp (writeBegun s))
  | overflow (h : s.phase = .build) (hf : 512 ≤ s.seqLen.toNat) : Moves s .seqOverflow { s with seqOvf := true }
  | play (h : s.phase = .play) (hp : s.pState = .pIdle) (hb : s.boundary ≠ 0) : Moves s .playStart (beginPlay s)
  | gap (h : s.pState = .pFetch) (hc : currentCode s = .ok gapCode) : Moves s .gap (fetchGapOp s)
  | code (i : Instr) (c : Code) (h : s.pState = .pFetch) (hc : currentCode s = .ok c) (hn : c ≠ gapCode) :
      Moves s i (fetchLetterOp c s)
  | dash (h : atWindow 0b111 s = true) : Moves s .dash (startElement .dash .dash dashUnits s)
  | dot (i : Instr) (w : BitVec 3) (hi : (∃ x, i = .dot10 x) ∨ i = .dot110) (h : atWindow w s = true)
      (hw : elementAt w = some .dot) : Moves s i (startElement .dot .dot dotUnits s)
  | pad (xx : BitVec 2) (h : atWindow (0#1 ++ xx) s = true) : Moves s (.pad xx) (advanceBits 1 s)
  | walkEnd (h : s.pState = .pWalk) (hb : s.bitCnt = 16) : Moves s .walkEnd (toNextOp s)
  | tick (h : tickEnabled s = true) : Moves s .tick (tickOp s)
  | onExpiry (h : s.pState = .pOn) (hw : s.waitCnt = 0) : Moves s .onExpiry (onExpiryOp s)
  | offExpiry (h : s.pState = .pOff) (hw : s.waitCnt = 0) : Moves s .offExpiry (offExpiryOp s)
  | wgapExpiry (h : s.pState = .pWgap) (hw : s.waitCnt = 0) : Moves s .wgapExpiry (toNextOp s)
  | lgapExpiry (h : s.pState = .pLgap) (hw : s.waitCnt = 0) : Moves s .lgapExpiry (nextCodeOp s)
  | nextLetter (h : s.pState = .pNext) (hl : s.rdIdx ≠ s.seqLen - 1) (hg : s.curGap = false) :
      Moves s .nextLetter (nextLetterOp s)
  | nextGap (h : s.pState = .pNext) (hl : s.rdIdx ≠ s.seqLen - 1) (hg : s.curGap = true) :
      Moves s .nextGap (nextCodeOp s)
  | nextLast (h : s.pState = .pNext) (hl : s.rdIdx = s.seqLen - 1) : Moves s .nextLast (nextLastOp s)
  | append (i : Instr) (sym : Symbol) (hi : appends i) : Moves s i (emitAppend sym s)
  | drop (sym : Symbol) (h : 512 ≤ s.count.toNat) : Moves s (.appendDrop sym) (emitAppend sym s)
  | pop (i : Instr) (b : Byte) (n : Nat) (hi : pops i) (h : s.count ≠ 0)
      (hb : memRead s.fifoMem s.rdPtr.toNat = some b) : Moves s i { fifoTake b s with drainLeft := n }
  | drained (n : Nat) : Moves s (.drain n) { s with drainLeft := 0 }
  | lookup (idx : BitVec 5) : Moves s (.lookup idx) { s with lookupOut := romRead idx }
  | reset : Moves s .reset (resetOp s)

theorem moves_of_enabled {b : Bool} {op : State → State} {s t : State} {i : Instr}
    (h : whenEnabled b op s = .next t) (hb : b = true → Moves s i (op s)) : Moves s i t := by
  rcases whenEnabled_next.mp h with ⟨hb', rfl⟩ | ⟨_, rfl⟩
  · exact hb hb'
  · exact .stay i

theorem moves_of_text {op : State → State} {s t : State} {i : Instr}
    (h : Host.Outcome.next (textTransaction op s) = (.next t : Host.Outcome State Fault Refusal))
    (hb : s.phase ≠ .play → Moves s i (op (writeBegun s))) : Moves s i t := by
  cases h
  by_cases hp : s.phase = .play
  · rw [textTransaction_play hp]; exact .stay i
  · rw [textTransaction_eq hp]; exact hb hp

theorem moves_of_fetch {sel : Code → Bool} {op : Code → State → State} {s t : State} {i : Instr}
    (h : whenFetched sel op s = .next t)
    (hb : ∀ c, s.pState = .pFetch → currentCode s = .ok c → sel c = true → Moves s i (op c s)) : Moves s i t := by
  rcases whenFetched_next.mp h with ⟨_, rfl⟩ | ⟨hp, c, hc, rfl⟩
  · exact .stay i
  · split
    · rename_i hs; exact hb c hp hc hs
    · exact .stay i

theorem moves_of_read {k : State → State} {s t : State} {i : Instr} {n : Nat} (hi : pops i)
    (hk : ∀ b, k (fifoTake b s) = { fifoTake b s with drainLeft := n })
    (h : whenReadable k s = .next t) (he : ¬ fifoEmpty s = true) : Moves s i t := by
  obtain ⟨b, hb, rfl⟩ := whenReadable_next.mp h
  rw [hk]
  exact .pop i b n hi (fun hc => he (fifoEmpty_iff.mpr hc)) hb

/-- Both windows `10x` start a dot (R96). -/
theorem elementAt_dot10 : ∀ x : BitVec 1, elementAt (0b10#2 ++ x) = some .dot := by decide

/-- Inversion of `exec`: a next state comes from one of the moves. -/
theorem exec_moves {s t : State} (i : Instr) : exec i s = .next t → Moves s i t := by
  induction i using Instr_byLetter with
  | upper k =>
    intro h; rw [exec_upper] at h
    exact moves_of_text h fun hp => .letter _ k (.inr (.inl ⟨k, .inl rfl⟩)) hp
  | lower k =>
    intro h; rw [exec_lower] at h
    exact moves_of_text h fun hp => .letter _ k (.inr (.inl ⟨k, .inr rfl⟩)) hp
  | code k =>
    intro h; rw [exec_code] at h
    refine moves_of_fetch h fun c hp hc hs => .code _ c hp hc ?_
    rw [beq_iff_eq.mp hs]; exact romWord_ne_gap k
  | byteWord d =>
    intro h
    refine moves_of_text h fun hp => ?_
    cases classify d with
    | letter k => exact .letter _ k (.inl ⟨d, rfl⟩) hp
    | space => exact .space _ (.inl ⟨d, rfl⟩) hp
    | other => exact .ignore _ hp
  | endWord d => intro h; exact moves_of_text h fun hp => .finish d hp
  | space => intro h; exact moves_of_text h fun hp => .space _ (.inr (.inr rfl)) hp
  | ignore b => intro h; exact moves_of_text h fun hp => .ignore _ hp
  | gap =>
    intro h
    refine moves_of_fetch h fun c hp hc hs => ?_
    exact .gap hp (beq_iff_eq.mp hs ▸ hc)
  | codeOther c =>
    intro h
    refine moves_of_fetch h fun d hp hc hs => .code _ d hp hc ?_
    simp only [Bool.and_eq_true, beq_iff_eq, bne_iff_ne] at hs
    rw [hs.1]; exact hs.2
  | fetchLetter =>
    intro h
    exact moves_of_fetch h fun c hp hc hs => .code _ c hp hc (bne_iff_ne.mp hs)
  | dash => intro h; exact moves_of_enabled h fun hb => .dash hb
  | dot10 x =>
    intro h
    exact moves_of_enabled h fun hb => .dot _ _ (.inl ⟨x, rfl⟩) hb (elementAt_dot10 x)
  | dot110 => intro h; exact moves_of_enabled h fun hb => .dot _ _ (.inr rfl) hb rfl
  | pad xx => intro h; exact moves_of_enabled h fun hb => .pad xx hb
  | symDot => intro h; cases h; exact .append _ _ (by simp [appends])
  | symDash => intro h; cases h; exact .append _ _ (by simp [appends])
  | symSpace => intro h; cases h; exact .append _ _ (by simp [appends])
  | symNewline => intro h; cases h; exact .append _ _ (by simp [appends])
  | lookup idx => intro h; cases h; exact .lookup idx
  | writeStart => intro h; exact moves_of_enabled h fun hb => .begin (beq_iff_eq.mp hb)
  | seqOverflow =>
    intro h
    refine moves_of_enabled h fun hb => ?_
    simp only [Bool.and_eq_true, beq_iff_eq] at hb
    exact .overflow hb.1 (seqFull_iff.mp hb.2)
  | playStart =>
    intro h
    refine moves_of_enabled h fun hb => ?_
    simp only [Bool.and_eq_true, beq_iff_eq, bne_iff_ne] at hb
    exact .play hb.1.1 hb.1.2 hb.2
  | walkEnd =>
    intro h
    refine moves_of_enabled h fun hb => ?_
    simp only [Bool.and_eq_true, beq_iff_eq] at hb
    exact .walkEnd hb.1 hb.2
  | tick => intro h; exact moves_of_enabled h fun hb => .tick hb
  | onExpiry =>
    intro h
    refine moves_of_enabled h fun hb => ?_
    simp only [Bool.and_eq_true, beq_iff_eq] at hb
    exact .onExpiry hb.1 hb.2
  | offExpiry =>
    intro h
    refine moves_of_enabled h fun hb => ?_
    simp only [Bool.and_eq_true, beq_iff_eq] at hb
    exact .offExpiry hb.1 hb.2
  | wgapExpiry =>
    intro h
    refine moves_of_enabled h fun hb => ?_
    simp only [Bool.and_eq_true, beq_iff_eq] at hb
    exact .wgapExpiry hb.1 hb.2
  | lgapExpiry =>
    intro h
    refine moves_of_enabled h fun hb => ?_
    simp only [Bool.and_eq_true, beq_iff_eq] at hb
    exact .lgapExpiry hb.1 hb.2
  | nextLetter =>
    intro h
    refine moves_of_enabled h fun hb => ?_
    simp only [Bool.and_eq_true, beq_iff_eq, lastCode, Bool.not_eq_true', beq_eq_false_iff_ne] at hb
    exact .nextLetter hb.1.1 hb.1.2 hb.2
  | nextGap =>
    intro h
    refine moves_of_enabled h fun hb => ?_
    simp only [Bool.and_eq_true, beq_iff_eq, lastCode, Bool.not_eq_true', beq_eq_false_iff_ne] at hb
    exact .nextGap hb.1.1 hb.1.2 hb.2
  | nextLast =>
    intro h
    refine moves_of_enabled h fun hb => ?_
    simp only [Bool.and_eq_true, beq_iff_eq, lastCode] at hb
    exact .nextLast hb.1 hb.2
  | append sym =>
    intro h
    have h' : whenEnabled (!fifoFull s) (fun t => fifoStore sym (emit (.append sym) t)) s = .next t := h
    refine moves_of_enabled h' fun hb => ?_
    simp only [Bool.not_eq_true', fifoFull, decide_eq_false_iff_not, Nat.not_le] at hb
    show Moves s (.append sym) (fifoStore sym (emit (.append sym) s))
    rw [← emitAppend_of_room sym hb]
    exact .append _ sym (by simp [appends])
  | appendDrop sym =>
    intro h
    have h' : whenEnabled (fifoFull s) (fun t => raise .transcriptOverflow (emit (.append sym) t)) s = .next t := h
    refine moves_of_enabled h' fun hb => ?_
    show Moves s (.appendDrop sym) (raise .transcriptOverflow (emit (.append sym) s))
    rw [← emitAppend_of_full sym (fifoFull_iff.mp hb)]
    exact .drop sym (fifoFull_iff.mp hb)
  | pop =>
    intro h
    simp only [exec, execPop] at h
    split at h
    · cases h; exact .stay _
    · rename_i he; exact moves_of_read (.inl rfl) (fun _ => rfl) h he
  | drain n =>
    intro h
    simp only [exec, execDrain] at h
    split at h
    · cases h; exact .drained n
    · rename_i he
      exact moves_of_read (.inr ⟨n, rfl⟩) (fun _ => rfl) h (fun hc => he (.inr hc))
  | reset => intro h; cases h; exact .reset

end Sys2Proof.Machine
end

