-- ==== Sys2Proof/Laws/PerInstr.lean ====
section
/-! SUPPORT. Families of statements made per instruction. -/

namespace Sys2Proof.Laws.EncodeFormat

/-- The encoder writes an instruction in the format of its row (spec/30_encoding.md R90, R99). -/
def Statement (i : Instr) : Prop := (encode i).format = i.format

theorem byteWord : ∀ data, Statement (.byteWord data) := fun _ => rfl
theorem endWord : ∀ data, Statement (.endWord data) := fun _ => rfl
theorem upperA : Statement .upperA := rfl
theorem upperB : Statement .upperB := rfl
theorem upperC : Statement .upperC := rfl
theorem upperD : Statement .upperD := rfl
theorem upperE : Statement .upperE := rfl
theorem upperF : Statement .upperF := rfl
theorem upperG : Statement .upperG := rfl
theorem upperH : Statement .upperH := rfl
theorem upperI : Statement .upperI := rfl
theorem upperJ : Statement .upperJ := rfl
theorem upperK : Statement .upperK := rfl
theorem upperL : Statement .upperL := rfl
theorem upperM : Statement .upperM := rfl
theorem upperN : Statement .upperN := rfl
theorem upperO : Statement .upperO := rfl
theorem upperP : Statement .upperP := rfl
theorem upperQ : Statement .upperQ := rfl
theorem upperR : Statement .upperR := rfl
theorem upperS : Statement .upperS := rfl
theorem upperT : Statement .upperT := rfl
theorem upperU : Statement .upperU := rfl
theorem upperV : Statement .upperV := rfl
theorem upperW : Statement .upperW := rfl
theorem upperX : Statement .upperX := rfl
theorem upperY : Statement .upperY := rfl
theorem upperZ : Statement .upperZ := rfl
theorem lowerA : Statement .lowerA := rfl
theorem lowerB : Statement .lowerB := rfl
theorem lowerC : Statement .lowerC := rfl
theorem lowerD : Statement .lowerD := rfl
theorem lowerE : Statement .lowerE := rfl
theorem lowerF : Statement .lowerF := rfl
theorem lowerG : Statement .lowerG := rfl
theorem lowerH : Statement .lowerH := rfl
theorem lowerI : Statement .lowerI := rfl
theorem lowerJ : Statement .lowerJ := rfl
theorem lowerK : Statement .lowerK := rfl
theorem lowerL : Statement .lowerL := rfl
theorem lowerM : Statement .lowerM := rfl
theorem lowerN : Statement .lowerN := rfl
theorem lowerO : Statement .lowerO := rfl
theorem lowerP : Statement .lowerP := rfl
theorem lowerQ : Statement .lowerQ := rfl
theorem lowerR : Statement .lowerR := rfl
theorem lowerS : Statement .lowerS := rfl
theorem lowerT : Statement .lowerT := rfl
theorem lowerU : Statement .lowerU := rfl
theorem lowerV : Statement .lowerV := rfl
theorem lowerW : Statement .lowerW := rfl
theorem lowerX : Statement .lowerX := rfl
theorem lowerY : Statement .lowerY := rfl
theorem lowerZ : Statement .lowerZ := rfl
theorem space : Statement .space := rfl
theorem ignore : ∀ b, Statement (.ignore b) := fun _ => rfl
theorem gap : Statement .gap := rfl
theorem codeA : Statement .codeA := rfl
theorem codeB : Statement .codeB := rfl
theorem codeC : Statement .codeC := rfl
theorem codeD : Statement .codeD := rfl
theorem codeE : Statement .codeE := rfl
theorem codeF : Statement .codeF := rfl
theorem codeG : Statement .codeG := rfl
theorem codeH : Statement .codeH := rfl
theorem codeI : Statement .codeI := rfl
theorem codeJ : Statement .codeJ := rfl
theorem codeK : Statement .codeK := rfl
theorem codeL : Statement .codeL := rfl
theorem codeM : Statement .codeM := rfl
theorem codeN : Statement .codeN := rfl
theorem codeO : Statement .codeO := rfl
theorem codeP : Statement .codeP := rfl
theorem codeQ : Statement .codeQ := rfl
theorem codeR : Statement .codeR := rfl
theorem codeS : Statement .codeS := rfl
theorem codeT : Statement .codeT := rfl
theorem codeU : Statement .codeU := rfl
theorem codeV : Statement .codeV := rfl
theorem codeW : Statement .codeW := rfl
theorem codeX : Statement .codeX := rfl
theorem codeY : Statement .codeY := rfl
theorem codeZ : Statement .codeZ := rfl
theorem codeOther : ∀ c, Statement (.codeOther c) := fun _ => rfl
theorem dash : Statement .dash := rfl
theorem dot10 : ∀ x, Statement (.dot10 x) := fun _ => rfl
theorem dot110 : Statement .dot110 := rfl
theorem pad : ∀ xx, Statement (.pad xx) := fun _ => rfl
theorem symDot : Statement .symDot := rfl
theorem symDash : Statement .symDash := rfl
theorem symSpace : Statement .symSpace := rfl
theorem symNewline : Statement .symNewline := rfl
theorem lookup : ∀ idx, Statement (.lookup idx) := fun _ => rfl
theorem writeStart : Statement .writeStart := rfl
theorem seqOverflow : Statement .seqOverflow := rfl
theorem playStart : Statement .playStart := rfl
theorem fetchLetter : Statement .fetchLetter := rfl
theorem walkEnd : Statement .walkEnd := rfl
theorem tick : Statement .tick := rfl
theorem onExpiry : Statement .onExpiry := rfl
theorem offExpiry : Statement .offExpiry := rfl
theorem wgapExpiry : Statement .wgapExpiry := rfl
theorem nextLetter : Statement .nextLetter := rfl
theorem nextGap : Statement .nextGap := rfl
theorem lgapExpiry : Statement .lgapExpiry := rfl
theorem nextLast : Statement .nextLast := rfl
theorem append : ∀ sym, Statement (.append sym) := fun _ => rfl
theorem appendDrop : ∀ sym, Statement (.appendDrop sym) := fun _ => rfl
theorem pop : Statement .pop := rfl
theorem drain : ∀ max, Statement (.drain max) := fun _ => rfl
theorem reset : Statement .reset := rfl

end Sys2Proof.Laws.EncodeFormat
end

