-- ==== Sys2Proof/Laws/Step.lean ====
section
/-! SUPPORT. What a step and a fetch can do. -/

namespace Sys2Proof.Machine

/-- A step performs the decoded instruction that was fetched. -/
theorem step_of_fetch {s t : State} {e : Encoded} {i : Instr} (hf : fetch s = .ok (e, t))
    (hd : decode e = .ok i) : step s = exec i t := by
  simp [step, hf, hd]

/-- A step that answers a next state fetched and decoded an instruction. -/
theorem step_next {s u : State} (h : step s = .next u) :
    ∃ e t i, fetch s = .ok (e, t) ∧ decode e = .ok i ∧ exec i t = .next u := by
  unfold step at h
  split at h
  · cases h
  · rename_i e t hf
    split at h
    · rename_i i hd; exact ⟨e, t, i, hf, hd, h⟩
    · cases h

theorem map_pair_ok {x : Except Fault Encoded} {s t : State} {e : Encoded}
    (h : (x.map fun e' => (e', s)) = .ok (e, t)) : x = .ok e ∧ t = s := by
  cases x with
  | error f => cases h
  | ok e' => cases h; exact ⟨rfl, rfl⟩

/-- A fetch changes the schedule and the bench only. -/
theorem fetch_frame {s t : State} {e : Encoded} (h : fetch s = .ok (e, t)) :
    t = { s with turns := t.turns, bench := t.bench } := by
  unfold fetch at h
  split at h
  · cases h; rfl
  · unfold fetchTurn at h
    split at h
    · rw [(map_pair_ok h).2]
    · rw [(map_pair_ok h).2]
    · cases h; rfl
    · split at h
      · rw [(map_pair_ok h).2]
      · cases h; rfl

/-- With nothing on the bench a fetch is the agents'. -/
theorem fetch_of_no_bench {s : State} (h : s.bench = []) : fetch s = fetchTurn s := by
  simp [fetch, h]

/-- What a fetch takes in the block, once: the block's own work, the reader's outstanding DRAIN, or an offer that need
not wait. Only the entry taken leaves the schedule. -/
theorem fetchTurn_cases {s t : State} {e : Encoded} (h : fetchTurn s = .ok (e, t)) :
    (ownWork s = .ok e ∧ (t = s ∨ ∃ rest, s.turns = .own :: rest ∧ t = { s with turns := rest })) ∨
    (e = .op (.drain s.drainLeft) ∧
      (t = s ∧ s.drainLeft ≠ 0 ∨ ∃ rest, s.turns = .reader :: rest ∧ t = { s with turns := rest })) ∨
    ∃ o rest, s.turns = .offer o :: rest ∧ mustWait o s = false ∧ e = offerInput o ∧
      t = { s with turns := rest } := by
  have idle : ∀ {e'}, idleWork s = .ok e' →
      (ownWork s = .ok e' ∨ e' = .op (.drain s.drainLeft) ∧ s.drainLeft ≠ 0) := by
    intro e' he
    unfold idleWork at he
    split at he
    · exact .inl he
    · rename_i hd; cases he; exact .inr ⟨rfl, hd⟩
  have wait : (idleWork s).map (fun e' => (e', s)) = .ok (e, t) →
      (ownWork s = .ok e ∧ t = s) ∨ (e = .op (.drain s.drainLeft) ∧ t = s ∧ s.drainLeft ≠ 0) := by
    intro hm
    obtain ⟨he, ht⟩ := map_pair_ok hm
    rcases idle he with h' | ⟨h', hd⟩
    · exact .inl ⟨h', ht⟩
    · exact .inr ⟨h', ht, hd⟩
  unfold fetchTurn at h
  split at h
  · rcases wait h with ⟨h', ht⟩ | ⟨h', ht⟩
    · exact .inl ⟨h', .inl ht⟩
    · exact .inr (.inl ⟨h', .inl ht⟩)
  · rename_i rest hs
    cases ho : ownWork s with
    | error f => rw [ho] at h; cases h
    | ok e' => rw [ho] at h; cases h; exact .inl ⟨rfl, .inr ⟨rest, hs, rfl⟩⟩
  · rename_i rest hs; cases h; exact .inr (.inl ⟨rfl, .inr ⟨rest, hs, rfl⟩⟩)
  · rename_i o rest hs
    split at h
    · rcases wait h with ⟨h', ht⟩ | ⟨h', ht⟩
      · exact .inl ⟨h', .inl ht⟩
      · exact .inr (.inl ⟨h', .inl ht⟩)
    · rename_i hw; cases h; exact .inr (.inr ⟨o, rest, hs, by simpa using hw, rfl, rfl⟩)

end Sys2Proof.Machine
end

