-- ==== Sys2Proof/Tests/Slice0.lean ====
section
/-! SUPPORT. The model's own tests, one step each on small states, and a witness for the hypotheses of each statement.
Expected values come from the spec: the encodings of opcode_table.json, the rules' examples, and the vectors of
spec/95_test_vectors.md (named in each test's docstring). -/

namespace Sys2Proof.Tests

open Sys2Proof Sys2Proof.Machine

/-- The outcome is a next state for which `p` holds. -/
def after (o : Host.Outcome State Fault Refusal) (p : State → Bool) : Bool :=
  match o with
  | .next t => p t
  | .fault _ => false
  | .refused _ => false

/-- A state in phase BUILD with the given codes in `seq_mem`. -/
def building (codes : List (Nat × BitVec 16)) (len bd : BitVec 10) (ps : Bool) : State :=
  { State.reset with phase := .build, seqMem := codes, seqLen := len, boundary := bd, pendingSpace := ps }

/-- A state in phase PLAY of the codes, at player state `p`. -/
def playing (codes : List (Nat × BitVec 16)) (len idx : BitVec 10) (p : PState) : State :=
  { State.reset with phase := .play, seqMem := codes, seqLen := len, boundary := len, rdIdx := idx, pState := p }

/-- The walk of the one code `c` of a sequence, `n` bit positions consumed. -/
def walking (c : Code) (n : Nat) : State :=
  { playing [(0, c)] 1 0 .pWalk with shreg := shl16 c n, bitCnt := BitVec.ofNat 5 n }

/-- An idle state whose FIFO holds the two symbols of a played "E" (V30). -/
def played : State :=
  { State.reset with
    seqMem := [(0, 0x8000)], seqLen := 1, boundary := 1, pendingSpace := false, bitCnt := 16
    fifoMem := [(0, 0x2E), (1, 0x0A)], wrPtr := 2, count := 2 }

/-- A full FIFO by its registers, with its oldest entry written (V41). -/
def fullFifo : State := { State.reset with count := 512, fifoMem := [(0, 0x2E)] }

/-! ## Well-formedness: each check refuses an ill-formed term -/

theorem test_wf_ignore_refuses_a_letter : (Instr.ignore 0x41).wellFormed = false := by decide
theorem test_wf_ignore_refuses_the_space : (Instr.ignore 0x20).wellFormed = false := by decide
theorem test_wf_other_refuses_the_gap : (Instr.codeOther 0x0000).wellFormed = false := by decide
theorem test_wf_other_refuses_a_rom_code : (Instr.codeOther 0xEEA0).wellFormed = false := by decide
theorem test_wf_lookup_refuses_26 : (Instr.lookup 26).wellFormed = false := by decide

/-! ## Decoding: the words as the table writes them -/

theorem test_decode_txw9 : decode (.txw9 0b001000001#9) = .ok (.byteWord 0x41) ∧
    decode (.txw9 0b100000000#9) = .ok (.endWord 0x00) := by decide

theorem test_decode_upper :
    [0b01000001#8, 0b01000010#8, 0b01000011#8, 0b01000100#8, 0b01000101#8,
      0b01000110#8, 0b01000111#8, 0b01001000#8, 0b01001001#8, 0b01001010#8,
      0b01001011#8, 0b01001100#8, 0b01001101#8, 0b01001110#8, 0b01001111#8,
      0b01010000#8, 0b01010001#8, 0b01010010#8, 0b01010011#8, 0b01010100#8,
      0b01010101#8, 0b01010110#8, 0b01010111#8, 0b01011000#8, 0b01011001#8,
      0b01011010#8].map
      decodeText8 = Instr.upperRows := by decide

theorem test_decode_lower :
    [0b01100001#8, 0b01100010#8, 0b01100011#8, 0b01100100#8, 0b01100101#8,
      0b01100110#8, 0b01100111#8, 0b01101000#8, 0b01101001#8, 0b01101010#8,
      0b01101011#8, 0b01101100#8, 0b01101101#8, 0b01101110#8, 0b01101111#8,
      0b01110000#8, 0b01110001#8, 0b01110010#8, 0b01110011#8, 0b01110100#8,
      0b01110101#8, 0b01110110#8, 0b01110111#8, 0b01111000#8, 0b01111001#8,
      0b01111010#8].map
      decodeText8 = Instr.lowerRows := by decide

theorem test_decode_codes :
    [0b1011100000000000#16, 0b1110101010000000#16, 0b1110101110100000#16, 0b1110101000000000#16,
      0b1000000000000000#16, 0b1010111010000000#16, 0b1110111010000000#16, 0b1010101000000000#16,
      0b1010000000000000#16, 0b1011101110111000#16, 0b1110101110000000#16, 0b1011101010000000#16,
      0b1110111000000000#16, 0b1110100000000000#16, 0b1110111011100000#16, 0b1011101110100000#16,
      0b1110111010111000#16, 0b1011101000000000#16, 0b1010100000000000#16, 0b1110000000000000#16,
      0b1010111000000000#16, 0b1010101110000000#16, 0b1011101110000000#16, 0b1110101011100000#16,
      0b1110101110111000#16, 0b1110111010100000#16].map
      decodeSc16 = Instr.codeRowInstrs := by decide

theorem test_decode_other_text : decodeText8 0b00100000#8 = .space ∧
    [0x00, 0x09, 0x1F, 0x21, 0x40, 0x5B, 0x60, 0x7B, 0x80, 0xC1, 0xE1, 0xFF].all
      (fun b => decodeText8 b == .ignore b) = true := by decide

theorem test_decode_other_codes : decodeSc16 0b0000000000000000#16 = .gap ∧
    decodeSc16 0b0000000000000111#16 = .codeOther 0x0007 := by decide

theorem test_decode_windows :
    [0b000#3, 0b001#3, 0b010#3, 0b011#3, 0b100#3, 0b101#3, 0b110#3, 0b111#3].map decodeWin3 =
      [.pad 0b00, .pad 0b01, .pad 0b10, .pad 0b11, .dot10 0, .dot10 1, .dot110, .dash] := by decide

theorem test_decode_symbols : decode (.sym8 0b00101110#8) = .ok .symDot ∧
    decode (.sym8 0b00101101#8) = .ok .symDash ∧ decode (.sym8 0b00100000#8) = .ok .symSpace ∧
    decode (.sym8 0b00001010#8) = .ok .symNewline ∧ decode (.sym8 0b00001101#8) = .error .noSuchSymbol := by
  decide

theorem test_decode_ops :
    [Op.lookup 18, .writeStart, .seqOverflow, .playStart, .fetchLetter, .walkEnd, .tick, .onExpiry, .offExpiry,
      .wgapExpiry, .nextLetter, .nextGap, .lgapExpiry, .nextLast, .append .dot, .appendDrop .newline, .pop, .drain 5,
      .reset].map decodeOp =
    [Instr.lookup 18, .writeStart, .seqOverflow, .playStart, .fetchLetter, .walkEnd, .tick, .onExpiry, .offExpiry,
      .wgapExpiry, .nextLetter, .nextGap, .lgapExpiry, .nextLast, .append .dot, .appendDrop .newline, .pop, .drain 5,
      .reset] := by decide

/-! ## Operands and the ROM -/

/-- V27: the boundaries of the classes. -/
theorem test_classes :
    [0x40, 0x41, 0x5A, 0x5B, 0x60, 0x61, 0x65, 0x7A, 0x7B, 0x20, 0x09, 0xC1].map classify =
      [.other, .letter 0, .letter 25, .other, .other, .letter 0, .letter 4, .letter 25, .other, .space, .other,
       .other] := by decide

/-- R92: 52 letter bytes, one space, 203 ignored bytes. -/
theorem test_class_counts :
    ((List.range 256).filter fun n => classify (BitVec.ofNat 8 n) == .other).length = 203 ∧
    ((List.range 256).filter fun n => classify (BitVec.ofNat 8 n) == .space).length = 1 := by
  decide +kernel

/-- R123, R150: each constant is the encoding of its pattern, and walks back to it. -/
theorem test_rom_is_encoded_patterns : patterns.map enc = rom := by decide
theorem test_rom_walks_back : rom.map elements = patterns := by decide

/-- R151: distinct, bit 15 set, bits 2:0 clear, bit 3 set only in J, Q, Y. -/
theorem test_rom_properties : rom.Nodup ∧ rom.all (fun c => c.getLsbD 15 && c.extractLsb' 0 3 == 0) = true ∧
    ((List.range 26).filter fun k => (rom.getD k 0).getLsbD 3) = [9, 16, 24] := by decide

/-- V34: codes that are not in the ROM. -/
theorem test_elements_of_other_codes :
    elements 0xFFFF = morse "-----.".toList ∧ elements 0x0007 = morse "-".toList ∧
    elements 0x0003 = morse "..".toList ∧ elements 0xF000 = morse "-.".toList ∧
    elements 0x0001 = morse ".".toList := by decide

/-- V33: "SOS", 26 units. V35: a gap last, 8 units. -/
theorem test_play_traces : (playTrace 0 [0xA800, 0xEEE0, 0xA800]).2 = 26 ∧
    playUnits [0xA800, 0xEEE0, 0xA800] = 26 ∧ (playTrace 0 [0xB800, 0x0000]).2 = 8 := by decide

/-- V29: "  HI  ". -/
theorem test_build_hi : build [0x20, 0x20, 0x48, 0x49, 0x20, 0x20] = [0xAA00, 0xA000] := by decide

/-- V29: "A ? B" and "A TAB B". -/
theorem test_build_separators : build [0x41, 0x20, 0x3F, 0x20, 0x42] = [0xB800, 0x0000, 0xEA80] ∧
    build [0x41, 0x09, 0x42] = [0xB800, 0xEA80] := by decide

/-! ## The sequence builder -/

/-- R164's example: a fresh write, BYTE(0x73). -/
theorem test_byte_letter : after (exec (.byteWord 0x73) State.reset) (fun t =>
    t.phase == .build && memRead t.seqMem 0 == some 0xA800 && t.seqLen == 1 && t.boundary == 1 && !t.pendingSpace)
    = true := by decide

/-- V28: the letter after a word gap moves the boundary over it. -/
theorem test_letter_after_gap : after (exec .lowerB (building [(0, 0xB800), (1, 0)] 2 1 true)) (fun t =>
    memRead t.seqMem 2 == some 0xEA80 && t.seqLen == 3 && t.boundary == 3 && !t.pendingSpace) = true := by decide

/-- P6: word 512 of the write is dropped. -/
theorem test_letter_overflow : after (exec .upperS (building [] 512 512 false)) (fun t =>
    t.seqOvf && t.seqLen == 512 && t.boundary == 512 && t.seqMem == []) = true := by decide

/-- V29a: the 512th code is still accepted. -/
theorem test_letter_last_entry : after (exec .upperR (building [] 511 511 false)) (fun t =>
    !t.seqOvf && t.seqLen == 512 && memRead t.seqMem 511 == some 0xBA00) = true := by decide

/-- R165's example. -/
theorem test_space_appends : after (exec .space (building [(0, 0xB800)] 1 1 false)) (fun t =>
    memRead t.seqMem 1 == some 0 && t.seqLen == 2 && t.pendingSpace && t.boundary == 1) = true := by decide

/-- V29a: the gap that does not fit leaves the flag 0. -/
theorem test_space_overflow : after (exec .space (building [] 512 512 false)) (fun t =>
    t.seqOvf && !t.pendingSpace && t.seqLen == 512) = true := by decide

/-- R166's example: BYTE(0x31). -/
theorem test_ignore : after (exec (.byteWord 0x31) (building [(0, 0xB800)] 1 1 false)) (fun t =>
    t == building [(0, 0xB800)] 1 1 false) = true := by decide

/-- R168's example: "HI " truncates to 2 and starts play. -/
theorem test_end_truncates : after (exec (.endWord 0x0A) (building [(0, 0xAA00), (1, 0xA000), (2, 0)] 3 2 true))
    (fun t => t.seqLen == 2 && t.phase == .play && t.pState == .pFetch && t.rdIdx == 0 && t.trace == []) = true := by
  decide

/-- X5: an empty write is done at once. -/
theorem test_end_empty : after (exec (.endWord 0) State.reset) (fun t =>
    t.phase == .idle && t.trace == [⟨0, .done⟩] && t.count == 0) = true := by decide

/-- R162: a word in PLAY is not accepted. -/
theorem test_word_waits : after (exec (.byteWord 0x41) (playing [(0, 0x8000)] 1 0 .pFetch)) (fun t =>
    t == playing [(0, 0x8000)] 1 0 .pFetch) = true := by decide

theorem test_write_start : after (exec .writeStart played) (fun t =>
    t.phase == .build && t.seqLen == 0 && t.boundary == 0 && t.pendingSpace && t.count == 2) = true := by decide

theorem test_seq_overflow : after (exec .seqOverflow (building [] 512 512 false)) (fun t => t.seqOvf) = true := by
  decide

theorem test_play_start : after (exec .playStart { playing [(0, 0x8000)] 1 0 .pIdle with rdIdx := 5 }) (fun t =>
    t.pState == .pFetch && t.rdIdx == 0) = true := by decide

/-! ## The player -/

/-- V32: FETCH of the gap keeps `shreg` and `bit_cnt`. -/
theorem test_gap : after (exec .gap { playing [(0, 0x8000), (1, 0), (2, 0x8000)] 3 1 .pFetch with bitCnt := 16 })
    (fun t => t.curGap && t.pState == .pWgap && t.waitCnt == 1 && t.bitCnt == 16 && t.count == 1 &&
      memRead t.fifoMem 0 == some 0x20 && !t.led) = true := by decide

/-- R195's example. -/
theorem test_fetch_letter : after (exec .fetchLetter (playing [(0, 0xA800)] 1 0 .pFetch)) (fun t =>
    t.shreg == 0xA800 && t.bitCnt == 0 && t.pState == .pWalk && !t.curGap) = true := by decide

theorem test_code_row : after (exec .codeS (playing [(0, 0xA800)] 1 0 .pFetch)) (fun t =>
    t.shreg == 0xA800 && t.pState == .pWalk) = true := by decide

theorem test_code_other : after (exec (.codeOther 0xC000) (playing [(0, 0xC000)] 1 0 .pFetch)) (fun t =>
    t.shreg == 0xC000 && t.pState == .pWalk) = true := by decide

/-- R197's example: T. -/
theorem test_dash : after (exec .dash (walking 0xE000 0)) (fun t =>
    t.led && t.waitCnt == 3 && t.curElem == .dash && t.pState == .pOn &&
      t.trace == [⟨0, .on⟩, ⟨0, .append .dash⟩]) = true := by decide

/-- R198's example: S. -/
theorem test_dot : after (exec (.dot10 1) (walking 0xA800 0)) (fun t =>
    t.led && t.waitCnt == 1 && t.curElem == .dot && t.trace == [⟨0, .on⟩, ⟨0, .append .dot⟩]) = true := by decide

/-- V34: 0x0003 has window `110` at `bit_cnt` 14. -/
theorem test_dot_at_the_end : after (exec .dot110 (walking 0x0003 14)) (fun t => t.led && t.curElem == .dot) = true := by
  decide

/-- R199's example: 0x5000 at 1 becomes 0xA000 at 2. -/
theorem test_pad : after (exec (.pad 0b10) { walking 0x2800 0 with shreg := 0x5000, bitCnt := 1 }) (fun t =>
    t.shreg == 0xA000 && t.bitCnt == 2 && t.pState == .pWalk) = true := by decide

theorem test_walk_end : after (exec .walkEnd (walking 0x8000 16)) (fun t => t.pState == .pNext) = true := by decide

/-- R200's example: the first of three TICKs of a dash, and the last. -/
theorem test_tick_counts : after (exec .tick { walking 0xE000 0 with pState := .pOn, led := true, waitCnt := 3 })
    (fun t => t.pState == .pOn && t.waitCnt == 2 && t.now == 1 && t.led) = true := by decide
theorem test_tick_expires : after (exec .tick { walking 0xE000 0 with pState := .pOn, led := true, waitCnt := 1 })
    (fun t => t.pState == .pOff && t.waitCnt == 1 && !t.led && t.trace == [⟨1, .off⟩]) = true := by decide

theorem test_on_expiry : after (exec .onExpiry { walking 0xE000 0 with pState := .pOn, led := true }) (fun t =>
    !t.led && t.waitCnt == 1 && t.pState == .pOff) = true := by decide

/-- R202's example: after the dash of 0xE000. -/
theorem test_off_expiry : after (exec .offExpiry { walking 0xE000 0 with pState := .pOff, curElem := .dash }) (fun t =>
    t.shreg == 0 && t.bitCnt == 3 && t.pState == .pWalk) = true := by decide

theorem test_wgap_expiry : after (exec .wgapExpiry (playing [(0, 0)] 1 0 .pWgap)) (fun t => t.pState == .pNext) = true := by
  decide

/-- V32: NEXT after a letter, after a gap, the expiry of the letter gap, NEXT after the last code. -/
theorem test_next_letter : after (exec .nextLetter (playing [(0, 0x8000), (1, 0x8000)] 2 0 .pNext)) (fun t =>
    t.pState == .pLgap && t.waitCnt == 1 && t.trace == [⟨0, .append .space⟩]) = true := by decide
theorem test_next_gap : after (exec .nextGap { playing [(0, 0), (1, 0x8000)] 2 0 .pNext with curGap := true })
    (fun t => t.pState == .pFetch && t.rdIdx == 1 && t.trace == []) = true := by decide
theorem test_lgap_expiry : after (exec .lgapExpiry (playing [(0, 0x8000), (1, 0x8000)] 2 0 .pLgap)) (fun t =>
    t.pState == .pFetch && t.rdIdx == 1) = true := by decide
theorem test_next_last : after (exec .nextLast (playing [(0, 0x8000)] 1 0 .pNext)) (fun t =>
    t.pState == .pIdle && t.phase == .idle && t.trace == [⟨0, .append .newline⟩, ⟨0, .done⟩]) = true := by decide

/-! ## The transcript FIFO -/

/-- V40. -/
theorem test_append : after (exec (.append .dot) State.reset) (fun t =>
    memRead t.fifoMem 0 == some 0x2E && t.wrPtr == 1 && t.count == 1 && rdValid t && rdCount t == 1) = true := by decide

/-- R233: at 511 the append is accepted and `wr_ptr` wraps. -/
theorem test_append_wraps : after (exec (.append .dot) { State.reset with count := 511, wrPtr := 511 }) (fun t =>
    t.wrPtr == 0 && t.count == 512 && !t.trOvf) = true := by decide

/-- V41: the 513th append. -/
theorem test_append_drop : after (exec (.appendDrop .dash) fullFifo) (fun t =>
    t.count == 512 && t.trOvf && t.dropCnt == 1 && t.fifoMem == [(0, 0x2E)]) = true := by decide

/-- V43: saturation. -/
theorem test_drop_saturates : after (exec (.appendDrop .dash) { fullFifo with dropCnt := 0xFFFF }) (fun t =>
    t.dropCnt == 0xFFFF && t.trOvf) = true := by decide

theorem test_symbols : after (exec .symDot State.reset) (fun t => memRead t.fifoMem 0 == some 0x2E) = true ∧
    after (exec .symDash State.reset) (fun t => memRead t.fifoMem 0 == some 0x2D) = true ∧
    after (exec .symSpace State.reset) (fun t => memRead t.fifoMem 0 == some 0x20) = true ∧
    after (exec .symNewline State.reset) (fun t => memRead t.fifoMem 0 == some 0x0A) = true := by decide

/-- R236: POP of a played "E". R237: POP of an empty buffer. -/
theorem test_pop : after (exec .pop played) (fun t =>
    t.received == [0x2E] && t.rdPtr == 1 && t.count == 1 && t.fifoMem == played.fifoMem) = true := by decide
theorem test_pop_empty : after (exec .pop State.reset) (fun t => t == State.reset) = true := by decide

/-- R238: one turn of DRAIN(5), and DRAIN(0). -/
theorem test_drain : after (exec (.drain 5) played) (fun t =>
    t.received == [0x2E] && t.drainLeft == 4 && t.count == 1) = true := by decide
theorem test_drain_zero : after (exec (.drain 0) played) (fun t => t == played) = true := by decide

/-! ## LOOKUP, RESET, steps -/

/-- R121's example. R122: no value outside 0..25. -/
theorem test_lookup : after (exec (.lookup 18) State.reset) (fun t => t.lookupOut == some 0xA800) = true ∧
    after (exec (.lookup 26) State.reset) (fun t => t.lookupOut == none) = true := by decide

/-- V50: RESET during a dash. -/
theorem test_reset : after (exec .reset
      { walking 0xE000 0 with pState := .pOn, led := true, waitCnt := 2, count := 2, now := 3 }) (fun t =>
    t.phase == .idle && t.pState == .pIdle && !t.led && t.count == 0 && t.waitCnt == 0 && t.trace == [⟨3, .off⟩])
    = true := by decide

/-- A step takes the offered word; in PLAY it takes the player's step and the word stays offered. -/
theorem test_step_word : after (step { State.reset with turns := [.offer (.word 0x053)] }) (fun t =>
    t.turns == [] && memRead t.seqMem 0 == some 0xA800) = true := by decide
theorem test_step_word_waits : after (step { walking 0xE000 0 with turns := [.offer (.word 0x053)] }) (fun t =>
    t.turns == [.offer (.word 0x053)] && t.pState == .pOn) = true := by decide

/-- V36: a TICK offered in `P_WALK` does not happen before the player's step. -/
theorem test_step_urgent : after (step { walking 0x8000 1 with turns := [.offer .tick] }) (fun t =>
    t.now == 0 && t.bitCnt == 2) = true := by decide

/-- A bench hands a symbol to the FIFO alone (V40), and nothing that is no symbol. -/
theorem test_bench : after (step { State.reset with bench := [0x2E] }) (fun t => t.count == 1 && t.bench == []) = true ∧
    after (step { State.reset with bench := [0x41] }) (fun _ => true) = false := by decide

/-- The bare words of the table, stored where the next step fetches. -/
theorem test_fetch_word : after (step (State.reset.withFetchWord 8 0x41)) (fun t => t.seqLen == 1) = true ∧
    after (step (State.reset.withFetchWord 16 0xB800)) (fun t => t.pState == .pWalk && t.shreg == 0xB800) = true ∧
    after (step (State.reset.withFetchWord 8 0x7)) (fun t => t.pState == .pOn && t.led) = true ∧
    after (step (State.reset.withFetchWord 8 0x2E)) (fun t => t.count == 1) = true := by decide

/-! ## Witnesses: for each statement with hypotheses, concrete values that meet them all, each clause at a boundary -/

/-- The first unit of the dash of a played "T" (R197's example). -/
def sounding : State :=
  { walking 0xE000 0 with pState := .pOn, led := true, waitCnt := 3, curElem := .dash }

/-- The gap code of a played word gap about to be fetched, then a letter (V32). -/
def gapNext : State := playing [(0, 0x8000), (1, 0), (2, 0x8000)] 3 1 .pFetch

/-- A FIFO of `n` unread symbols from index 0. -/
def filled (n : Nat) : State :=
  { State.reset with
    fifoMem := (List.range n).map fun k => (k, 0x2E)
    wrPtr := BitVec.ofNat 9 n, count := BitVec.ofNat 10 n }

/-- An empty FIFO is sound. -/
theorem witness_fifo_empty {s : State} (hc : s.count = 0) (hp : s.wrPtr = s.rdPtr) : FifoOk s where
  count_le := by simp [hc]
  pointers := by simp [hc, hp]; omega
  written := fun k h => by simp [hc] at h

theorem witness_round_trip : (Instr.ignore 0xFF).wellFormed = true ∧ (Instr.codeOther 0x0001).wellFormed = true ∧
    (Instr.lookup 25).wellFormed = true ∧ Instr.codeZ.wellFormed = true := by decide

theorem witness_decoded_word : decode (.sc16 0xC000) = .ok (.codeOther 0xC000) ∧
    (Encoded.sc16 0xC000).format ≠ .op ∧ decode (.text8 0xC1) = .ok (.ignore 0xC1) := by decide

theorem witness_pattern_of_sixteen_bits :
    (contentBits [.dash, .dash, .dash, .dash]).length = 16 ∧ (contentBits []).length ≤ 16 := by decide

theorem witness_lookup_outside : 26 ≤ (26 : BitVec 5).toNat ∧ 26 ≤ (31 : BitVec 5).toNat := by decide

theorem witness_first_word : State.reset.phase = .idle ∧ isTextPort .space ∧ isTextPort (.endWord 0) :=
  ⟨rfl, .inr (.inr (.inr (.inl rfl))), .inr (.inl ⟨0, rfl⟩)⟩

theorem witness_letter : (building [] 511 511 false).phase ≠ .play ∧ (building [] 511 511 false).seqLen.toNat ≤ 512 ∧
    (building [] 512 512 false).phase ≠ .play ∧ (building [] 512 512 false).seqLen.toNat ≤ 512 ∧
    (0x7A : Byte).toNat = 0x61 + (25 : Letter).val ∧ (0x41 : Byte).toNat = 0x41 + (0 : Letter).val := by decide

theorem witness_ignored : State.reset.phase ≠ .play ∧ classify 0x40 = .other ∧ classify 0x7B = .other := by decide

theorem witness_end : (building [(0, 0x8000)] 1 1 false).phase ≠ .play ∧ State.reset.phase ≠ .play := by decide

theorem witness_play_start : (playing [(0, 0x8000)] 1 0 .pIdle).phase = .play ∧
    (playing [(0, 0x8000)] 1 0 .pIdle).pState = .pIdle ∧ (playing [(0, 0x8000)] 1 0 .pIdle).boundary ≠ 0 := by decide

theorem witness_full_sequence : (building [] 512 512 false).phase = .build ∧
    (building [] 512 512 false).seqLen.toNat = 512 ∧ (building [] 512 512 false).pendingSpace = false := by decide

/-- A word waits while the player works, also as the TEXT8 value of its byte: a step exists, and the offer is the first entry
of the schedule. -/
theorem witness_waiting_word :
    let s : State := { walking 0xE000 0 with turns := [.offer (.word 0x053)] }
    let s' : State := { walking 0xE000 0 with turns := [.offer (.text 0x53)] }
    s.phase = .play ∧ s.bench = [] ∧ s.turns = .offer (.word 0x053) :: [] ∧ after (step s) (fun _ => true) = true ∧
      s'.phase = .play ∧ s'.turns = .offer (.text 0x53) :: [] ∧ after (step s') (fun _ => true) = true := by decide

theorem witness_stores_elsewhere : after (exec .upperA (building [] 511 511 false)) (fun _ => true) = true ∧
    (510 : Nat) ≠ (writeBegun (building [] 511 511 false)).seqLen.toNat := by decide

theorem witness_independent_writes : isTextPort (.byteWord 0x41) ∧ State.reset.phase = .idle ∧
    withoutBuilder State.reset = withoutBuilder { State.reset with seqLen := 5, boundary := 3, pendingSpace := false } :=
  ⟨.inl ⟨_, rfl⟩, rfl, rfl⟩

theorem witness_fetch_gap : gapNext.pState = .pFetch ∧ reads gapNext 0x0000 ∧ gapNext.count.toNat ≤ 512 :=
  ⟨rfl, ⟨by decide, by decide⟩, by decide⟩

/-- Also with a full FIFO, where the space is dropped. -/
theorem witness_fetch_gap_full : reads { gapNext with count := 512 } 0x0000 ∧
    ({ gapNext with count := 512 } : State).count.toNat ≤ 512 := ⟨⟨by decide, by decide⟩, by decide⟩

theorem witness_fetch_letter : (playing [(0, 0xA800)] 1 0 .pFetch).pState = .pFetch ∧
    reads (playing [(0, 0xA800)] 1 0 .pFetch) 0xA800 ∧ (0xA800 : Code) ≠ 0x0000 ∧ (0xA800 : Code) = romWord 18 :=
  ⟨rfl, ⟨by decide, by decide⟩, by decide, by decide⟩

theorem witness_fetch_last_index :
    reads { playing [(511, 0x0001)] 512 511 .pFetch with turns := [] } 0x0001 ∧ (0x0001 : Code) ≠ 0x0000 :=
  ⟨⟨by decide, by decide⟩, by decide⟩

theorem witness_unwritten_code : (playing [] 1 0 .pFetch).pState = .pFetch ∧
    (playing [] 1 0 .pFetch).rdIdx.toNat < 512 ∧ memRead (playing [] 1 0 .pFetch).seqMem 0 = none := by decide

theorem witness_walk_end : (walking 0x8000 16).pState = .pWalk ∧ (walking 0x8000 16).bitCnt.toNat = 16 := by decide

theorem witness_dash : (walking 0x0007 13).pState = .pWalk ∧ (walking 0x0007 13).bitCnt.toNat < 16 ∧
    window (walking 0x0007 13).shreg = 0b111#3 ∧ (walking 0x0007 13).count.toNat ≤ 512 := by decide

theorem witness_dot : (walking 0x0001 15).pState = .pWalk ∧ (walking 0x0001 15).bitCnt.toNat < 16 ∧
    window (walking 0x0001 15).shreg = 0b10#2 ++ (0 : BitVec 1) ∧
    window (walking 0x0003 14).shreg = 0b110#3 ∧ (walking 0x0003 14).count.toNat ≤ 512 := by decide

theorem witness_pad : (walking 0x8000 15).pState = .pWalk ∧ (walking 0x8000 15).bitCnt.toNat < 16 ∧
    window (walking 0x8000 15).shreg = 0#1 ++ (0 : BitVec 2) ∧
    window (walking 0x2800 0).shreg = 0#1 ++ (1 : BitVec 2) := by decide

theorem witness_tick : sounding.pState.holding = true ∧ 1 < sounding.waitCnt.toNat ∧
    ({ sounding with waitCnt := 2 } : State).pState.holding = true ∧ 1 < (2 : BitVec 2).toNat ∧
    (1 : BitVec 2).toNat = 1 ∧ State.reset.phase ≠ .play ∧ State.reset.pState = .pIdle := by decide

theorem witness_expiries : ({ sounding with waitCnt := 0 } : State).pState = .pOn ∧
    ({ sounding with pState := .pOff, waitCnt := 0 } : State).pState = .pOff ∧
    ({ gapNext with pState := .pWgap } : State).waitCnt = 0 ∧
    (playing [(0, 0x8000), (1, 0x8000)] 2 0 .pLgap).waitCnt = 0 := by decide

/-- The invariants hold in the gap after a dash at the last position a dash can have. -/
theorem witness_gap_after_a_dash :
    let s : State := { walking 0x0007 13 with pState := .pOff, waitCnt := 1, curElem := .dash }
    Inv s ∧ s.pState = .pOff ∧ s.bitCnt.toNat + 3 = 16 where
  left := {
    mem := ⟨by decide, by decide⟩
    seq := ⟨by decide, by decide, by decide⟩
    fifo := witness_fifo_empty rfl rfl
    build := fun h => absurd h (by decide)
    player := ⟨by decide, by decide, by decide, by decide, fun _ => ⟨0x0007, by decide, by decide⟩, by decide⟩
    play := fun _ => ⟨by decide, by decide, by decide, by decide⟩ }
  right := by decide

theorem witness_hold : sounding.pState = .pOn ∧ 0 < sounding.waitCnt.toNat ∧
    after (execAll [.tick, .tick, .tick] sounding) (fun t => t.trace == [⟨3, .off⟩]) = true ∧
    ({ sounding with waitCnt := 1 } : State).pState = .pOn := by decide

theorem witness_dash_position : (walking 0x0007 13).shreg = (0x0007 : Code) <<< (walking 0x0007 13).bitCnt.toNat ∧
    (List.replicate 512 (0x20 : Byte)).length ≤ 512 := ⟨by decide, by rw [List.length_replicate]⟩

theorem witness_next : (playing [(0, 0x8000), (1, 0x8000)] 2 0 .pNext).pState = .pNext ∧
    (playing [(0, 0x8000), (1, 0x8000)] 2 0 .pNext).rdIdx ≠ (playing [(0, 0x8000), (1, 0x8000)] 2 0 .pNext).seqLen - 1 ∧
    (playing [(0, 0x8000), (1, 0x8000)] 2 0 .pNext).curGap = false ∧
    ({ gapNext with pState := .pNext, curGap := true } : State).rdIdx ≠ gapNext.seqLen - 1 ∧
    (playing [(0, 0x8000)] 1 0 .pNext).rdIdx = (playing [(0, 0x8000)] 1 0 .pNext).seqLen - 1 ∧
    (playing [(0, 0x8000)] 1 0 .pNext).count.toNat ≤ 512 := by decide

theorem witness_fifo_differs : ¬ pops .dash ∧ (∀ b, Instr.dash ≠ .append b ∧ Instr.dash ≠ .appendDrop b) ∧
    withoutFifo (walking 0xE000 0) = withoutFifo { walking 0xE000 0 with count := 512, trOvf := true, dropCnt := 7 } ∧
    after (exec .dash (walking 0xE000 0)) (fun _ => true) = true :=
  ⟨by simp [pops], by simp, rfl, by decide⟩

/-- A schedule of every kind of step of WRITER, TIME and READER. -/
def busyTurns : List Turn :=
  [.offer .pop, .offer (.drain 3), .own, .offer .tick, .reader, .offer (.word 0x053), .offer (.text 0x41), .own]

theorem witness_play_a_code :
    let s : State := { playing [(0, 0xA800)] 1 0 .pFetch with turns := busyTurns }
    s.phase = .play ∧ FifoOk s ∧ undisturbed s :=
  ⟨rfl, witness_fifo_empty rfl rfl, rfl, by decide⟩

theorem witness_play_a_sequence :
    let cs : List Code := [0xB800, 0x0000, 0xEA80]
    let s : State := { playing [(0, 0xB800), (1, 0), (2, 0xEA80)] 3 0 .pFetch with turns := busyTurns }
    cs ≠ [] ∧ cs.length ≤ 512 ∧ s.phase = .play ∧ s.pState = .pFetch ∧ s.rdIdx = 0 ∧ s.seqLen.toNat = cs.length ∧
      (∀ k, k < cs.length → memRead s.seqMem k = cs[k]?) ∧ FifoOk s ∧ undisturbed s :=
  ⟨by decide, by decide, rfl, rfl, rfl, by decide, by decide,
    witness_fifo_empty rfl rfl, rfl, by decide⟩

theorem witness_last_is_a_letter : [0xB800, 0x0000, 0xEA80].getLast? = some (0xEA80 : Code) ∧
    (0xEA80 : Code) ≠ gapCode := by decide

theorem witness_append : (filled 511).count.toNat < 512 ∧ (filled 512).count.toNat = 512 ∧ State.reset.count.toNat < 512 := by
  decide

theorem witness_append_elsewhere : after (exec .symDot (filled 511)) (fun _ => true) = true ∧
    (510 : Nat) ≠ (filled 511).wrPtr.toNat := by decide

theorem witness_pop : 0 < (filled 1).count.toNat ∧ memRead (filled 1).fifoMem (filled 1).rdPtr.toNat = some 0x2E ∧
    State.reset.count = 0 := by decide

theorem witness_unwritten_symbol : 0 < ({ State.reset with count := 1 } : State).count.toNat ∧
    memRead ({ State.reset with count := 1 } : State).fifoMem 0 = none := by decide

theorem memRead_constant (v : Byte) (l : List Nat) (a : Nat) (h : a ∈ l) :
    memRead (l.map fun k => (k, v)) a = some v := by
  induction l with
  | nil => cases h
  | cons b l ih =>
    simp only [List.map_cons, memRead]
    split
    · rfl
    · exact ih ((List.mem_cons.mp h).resolve_left ‹_›)

/-- A FIFO of any number of unread symbols, the empty and the full one among them. -/
theorem witness_fifo_ok (n : Nat) (h : n ≤ 512) : FifoOk (filled n) where
  count_le := by simp [filled]; omega
  pointers := by simp [filled, State.reset]
  written := fun k hk => by
    have hk' : k < n := by simp [filled] at hk; omega
    refine ⟨.dot, memRead_constant _ _ _ (List.mem_range.mpr ?_)⟩
    simp [filled, State.reset]; omega

theorem witness_drain :
    let s : State := { filled 2 with turns := [.offer (.drain 5)] }
    FifoOk s ∧ s.drainLeft = 0 ∧ s.bench = [] ∧ s.turns = [.offer (.drain 5)] :=
  have h := witness_fifo_ok 2 (by decide)
  ⟨⟨h.count_le, h.pointers, h.written⟩, rfl, rfl, rfl⟩

theorem witness_unread : FifoOk (filled 0) ∧ (filled 0).count = 0 ∧ (filled 0).trOvf = false ∧ (filled 0).dropCnt = 0 :=
  ⟨witness_fifo_ok 0 (by decide), rfl, rfl, rfl⟩

theorem witness_sticky : Instr.dash ≠ .reset ∧
    after (exec .dash { walking 0xE000 0 with seqOvf := true, trOvf := true, dropCnt := 1 }) (fun t => t.led) = true := by
  decide

theorem witness_leaves_the_play : (playing [(0, 0x8000)] 1 0 .pNext).phase = .play ∧
    after (exec .nextLast (playing [(0, 0x8000)] 1 0 .pNext)) (fun t => t.phase != .play) = true ∧
    after (exec .reset sounding) (fun t => t.phase != .play) = true := by decide

theorem witness_keeps_the_symbols : (filled 512).count.toNat ≤ 512 ∧ ¬ pops .symDot ∧ Instr.symDot ≠ .reset ∧
    after (exec .symDot (filled 512)) (fun _ => true) = true :=
  ⟨by decide, by simp [pops], by decide, by decide⟩

theorem witness_not_enabled : sounding.phase ≠ .idle ∧ sounding.phase ≠ .build ∧ sounding.pState ≠ .pIdle ∧
    sounding.pState ≠ .pFetch ∧ sounding.pState ≠ .pWalk ∧ sounding.pState ≠ .pNext ∧ sounding.waitCnt ≠ 0 ∧
    (walking 0x8000 0).pState.instantaneous = true ∧ (walking 0x8000 15).bitCnt.toNat ≠ 16 ∧
    16 ≤ (walking 0x8000 16).bitCnt.toNat ∧ window (walking 0x8000 0).shreg ≠ 0b111#3 ∧
    (building [] 511 511 false).seqLen.toNat < 512 ∧ 512 ≤ (filled 512).count.toNat ∧ (filled 511).count.toNat < 512 := by
  decide

/-- A code of the ROM at `P_FETCH` that is another letter's, and the word gap there; the NEXT rows' other conditions. -/
theorem witness_other_row : reads (playing [(0, 0xA800)] 1 0 .pFetch) 0xA800 ∧ (0xA800 : Code) ≠ romWord 0 ∧
    reads gapNext 0x0000 ∧ (playing [(0, 0x8000)] 1 0 .pNext).rdIdx = (playing [(0, 0x8000)] 1 0 .pNext).seqLen - 1 ∧
    (playing [(0, 0x8000), (1, 0x8000)] 2 0 .pNext).curGap = false ∧ (playing [(0, 0x8000)] 1 0 .pIdle).phase = .play :=
  ⟨⟨by decide, by decide⟩, by decide, ⟨by decide, by decide⟩, by decide, by decide, by decide⟩

theorem witness_step :
    let s : State := { State.reset with turns := [.offer (.word 0x053)] }
    s.bench = [] ∧ s.turns = .offer (.word 0x053) :: [] ∧ mustWait (.word 0x053) s = false ∧
    decode (offerInput (.word 0x053)) = .ok (.byteWord 0x53) ∧
    (walking 0x8000 15).bitCnt.toNat < 16 ∧ ¬ (walking 0x8000 16).bitCnt.toNat < 16 ∧
    sounding.pState.instantaneous = false ∧ ({ filled 2 with drainLeft := 1 } : State).drainLeft ≠ 0 ∧
    decode (.sym8 0x2E) = .ok .symDot := by decide

/-- A waiting word, a waiting TICK, and the entries `own` and `reader`. -/
theorem witness_step_entries :
    mustWait (.word 0x053) (walking 0x8000 0) = true ∧ mustWait (.text 0x53) (walking 0x8000 0) = true ∧
    mustWait .tick (walking 0x8000 0) = true ∧ idleWork (walking 0x8000 0) = .ok (.win3 0b100) ∧
    ownWork sounding = .ok (.op .tick) ∧ decode (.op .tick) = .ok .tick ∧
    after (step { sounding with turns := [.own] }) (fun t => t.turns == [] && t.now == 1) = true ∧
    after (step { played with turns := [.reader], drainLeft := 2 }) (fun t => t.received == [0x2E]) = true := by decide

theorem witness_table_word : decodeTableWord 8 0x41 = some .upperA ∧ decodeTableWord 16 0xB800 = some .codeA ∧
    decodeTableWord 3 0b110 = some .dot110 ∧ decodeTableWord 16 0x100 = some (.endWord 0) := by decide

/-- The invariants hold in the middle of a dash, and a step is taken there. -/
theorem witness_invariants_in_play : Inv sounding ∧ after (step sounding) (fun t => t.waitCnt == 2) = true where
  left := {
    mem := ⟨by decide, by decide⟩
    seq := ⟨by decide, by decide, by decide⟩
    fifo := witness_fifo_empty rfl rfl
    build := fun h => absurd h (by decide)
    player := ⟨by decide, by decide, by decide, by decide, fun _ => ⟨0xE000, by decide, by decide⟩, by decide⟩
    play := fun _ => ⟨by decide, by decide, by decide, by decide⟩ }
  right := by decide

/-- The invariants hold while "A " is being built, and a step is taken there. -/
theorem witness_invariants_in_build :
    let s : State := { building [(0, 0xB800), (1, 0)] 2 1 true with turns := [.offer (.word 0x042)] }
    Inv s ∧ after (step s) (fun t => t.boundary == 3) = true where
  left := {
    mem := ⟨by decide, by decide⟩
    seq := ⟨by decide, by decide, by decide⟩
    fifo := witness_fifo_empty rfl rfl
    build := fun _ => ⟨by decide, by decide, fun _ => ⟨0, by decide⟩, fun k hk => by cases (show k = 0 by simp [building] at hk; omega); decide, by decide⟩
    player := ⟨by decide, by decide, by decide, by decide, by decide, by decide⟩
    play := fun h => absurd h (by decide) }
  right := by decide

/-- The invariants hold at an instantaneous state, and a step is taken there. -/
theorem witness_instantaneous : Inv (walking 0xE000 0) ∧ (walking 0xE000 0).pState.instantaneous = true ∧
    after (step (walking 0xE000 0)) (fun t => t.led) = true where
  left := {
    mem := ⟨by decide, by decide⟩
    seq := ⟨by decide, by decide, by decide⟩
    fifo := witness_fifo_empty rfl rfl
    build := fun h => absurd h (by decide)
    player := ⟨by decide, by decide, by decide, by decide, fun _ => ⟨0xE000, by decide, by decide⟩, by decide⟩
    play := fun _ => ⟨by decide, by decide, by decide, by decide⟩ }
  right := ⟨by decide, by decide⟩

/-- An idle block with an earlier write's leftovers, offered the text " e?" and END. -/
theorem witness_whole_write :
    let s : State := { played with turns := [.offer .pop, .offer (.word 0x020), .own, .offer (.text 0x65), .offer (.drain 9),
      .offer (.word 0x03F), .offer (.word 0x10A), .reader, .own] }
    Inv s ∧ s.phase = .idle ∧
      undisturbed s ∧ s.turns.filterMap txWord = ([0x20, 0x65, 0x3F].map fun b : Byte => 0#1 ++ b) ++
        [1#1 ++ (0x0A : Byte)] where
  left := {
    mem := ⟨by decide, by decide⟩
    seq := ⟨by decide, by decide, by decide⟩
    fifo := ⟨by decide, by decide, fun k hk => by
      have : k = 0 ∨ k = 1 := by simp [played] at hk; omega
      rcases this with rfl | rfl
      · exact ⟨.dot, by decide⟩
      · exact ⟨.newline, by decide⟩⟩
    build := fun h => absurd h (by decide)
    player := ⟨by decide, by decide, by decide, by decide, by decide, by decide⟩
    play := fun h => absurd h (by decide) }
  right := ⟨by decide, ⟨rfl, by decide⟩, by decide⟩

end Sys2Proof.Tests
end

section
/-! PROOFS of the statements of spec/00_scope.md: what an operation that is not enabled does (R11, R281; log entries 6 and
12), and which instruction a step performs (R11, R281; log entries 3 and 20). -/

namespace Sys2Proof.Machine

/-! ## The operations whose condition does not hold -/

section
variable {s : State}

/-! ### Encoder, builder and start of the play -/

/-- The ROM has 26 words (R122). -/
theorem romRead_of_le {idx : BitVec 5} (h : 26 ≤ idx.toNat) : romRead idx = none :=
  List.getElem?_eq_none h

theorem exec_lookup_of_le {idx : BitVec 5} (h : 26 ≤ idx.toNat) :
    exec (.lookup idx) s = .next { s with lookupOut := none } := by
  rw [← romRead_of_le h]; rfl

theorem exec_writeStart_disabled (h : s.phase ≠ .idle) : exec .writeStart s = .next s :=
  whenEnabled_of_not (by simpa using h)

theorem exec_seqOverflow_disabled (h : s.phase ≠ .build ∨ s.seqLen.toNat < 512) :
    exec .seqOverflow s = .next s :=
  whenEnabled_of_not <| by
    rw [Bool.and_eq_true, beq_iff_eq, seqFull_iff]
    rintro ⟨hphase, hfull⟩
    rcases h with h | h
    · exact h hphase
    · omega

theorem exec_playStart_disabled (h : s.phase ≠ .play ∨ s.pState ≠ .pIdle ∨ s.boundary = 0) :
    exec .playStart s = .next s :=
  whenEnabled_of_not <| by
    simp only [Bool.and_eq_true, beq_iff_eq, bne_iff_ne]
    rintro ⟨⟨hphase, hplayer⟩, hboundary⟩
    rcases h with h | h | h
    · exact h hphase
    · exact h hplayer
    · exact hboundary h

/-! ### The fetching rows -/

/-- `reads` is the successful read of the code at `rd_idx`. -/
theorem currentCode_of_reads {c : Code} (h : reads s c) : currentCode s = .ok c := currentCode_ok.mpr h

theorem whenFetched_elsewhere {sel : Code → Bool} {op : Code → State → State} (h : s.pState ≠ .pFetch) :
    whenFetched sel op s = .next s :=
  whenFetched_next.mpr (.inl ⟨h, rfl⟩)

/-- A fetching row that does not select the code read leaves it to the row that does. -/
theorem whenFetched_of_not_selected {sel : Code → Bool} {op : Code → State → State} {c : Code}
    (hp : s.pState = .pFetch) (hc : reads s c) (hsel : sel c = false) : whenFetched sel op s = .next s :=
  whenFetched_next.mpr (.inr ⟨hp, c, currentCode_of_reads hc, by simp [hsel]⟩)

theorem exec_fetchingRow_elsewhere {i : Instr} (hp : s.pState ≠ .pFetch)
    (hi : i = .gap ∨ i = .fetchLetter ∨ (∃ k, i = .code k) ∨ ∃ c, i = .codeOther c) : exec i s = .next s := by
  rcases hi with rfl | rfl | ⟨k, rfl⟩ | ⟨c, rfl⟩
  · exact whenFetched_elsewhere hp
  · exact whenFetched_elsewhere hp
  · exact (exec_code k s).trans (whenFetched_elsewhere hp)
  · exact whenFetched_elsewhere hp

section
variable {c : Code} (hp : s.pState = .pFetch) (hc : reads s c)
include hp hc

theorem exec_gap_disabled (h : c ≠ gapCode) : exec .gap s = .next s :=
  whenFetched_of_not_selected hp hc (by simpa using h)

theorem exec_fetchLetter_disabled (h : c = gapCode) : exec .fetchLetter s = .next s :=
  whenFetched_of_not_selected hp hc (by simpa using h)

theorem exec_code_disabled {k : Letter} (h : c ≠ romWord k) : exec (.code k) s = .next s :=
  (exec_code k s).trans (whenFetched_of_not_selected hp hc (by simpa using h))

/-- CODE.OTHER of `d` needs the code `d`, and `d` is no word gap. -/
theorem exec_codeOther_disabled {d : Code} (h : c ≠ d ∨ c = gapCode) : exec (.codeOther d) s = .next s :=
  whenFetched_of_not_selected hp hc <| by
    rw [Bool.and_eq_false_iff, beq_eq_false_iff_ne, bne_eq_false_iff_eq]
    by_cases hd : c = d
    · exact .inr (hd ▸ h.resolve_left (not_not_intro hd))
    · exact .inl hd

end

/-! ### The walk -/

theorem exec_walkEnd_disabled (h : s.pState ≠ .pWalk ∨ s.bitCnt.toNat ≠ 16) : exec .walkEnd s = .next s :=
  whenEnabled_of_not <| by
    rw [Bool.and_eq_true, beq_iff_eq, beq_iff_eq]
    rintro ⟨hwalk, hbits⟩
    rcases h with h | h
    · exact h hwalk
    · exact h (by rw [hbits]; rfl)

theorem not_atWindow {w : BitVec 3} (h : s.pState ≠ .pWalk ∨ 16 ≤ s.bitCnt.toNat ∨ window s.shreg ≠ w) :
    ¬ atWindow w s = true := by
  rw [atWindow_iff]
  rintro ⟨hwalk, hbits, hwindow⟩
  rcases h with h | h | h
  · exact h hwalk
  · omega
  · exact h hwindow

theorem exec_windowRow_disabled {i : Instr} {w : BitVec 3}
    (hi : (i = .dash ∧ w = 0b111#3) ∨ (∃ x : BitVec 1, i = .dot10 x ∧ w = 0b10#2 ++ x) ∨
      (i = .dot110 ∧ w = 0b110#3) ∨ ∃ xx : BitVec 2, i = .pad xx ∧ w = 0#1 ++ xx)
    (h : s.pState ≠ .pWalk ∨ 16 ≤ s.bitCnt.toNat ∨ window s.shreg ≠ w) : exec i s = .next s := by
  have hw := not_atWindow h
  rcases hi with ⟨rfl, rfl⟩ | ⟨x, rfl, rfl⟩ | ⟨rfl, rfl⟩ | ⟨xx, rfl, rfl⟩
  all_goals exact whenEnabled_of_not hw

/-! ### Holds and time -/

/-- The condition of an expiry: the player is in the state that the hold belongs to, and the hold has ended. -/
theorem not_expired {p : PState} (h : s.pState ≠ p ∨ s.waitCnt ≠ 0) : ¬ (s.pState == p && s.waitCnt == 0) = true := by
  rw [Bool.and_eq_true, beq_iff_eq, beq_iff_eq]
  rintro ⟨hp, hwait⟩
  exact h.elim (· hp) (· hwait)

theorem exec_expiry_disabled {i : Instr} {p : PState}
    (hi : (i = .onExpiry ∧ p = PState.pOn) ∨ (i = .offExpiry ∧ p = .pOff) ∨ (i = .wgapExpiry ∧ p = .pWgap) ∨
      (i = .lgapExpiry ∧ p = .pLgap))
    (h : s.pState ≠ p ∨ s.waitCnt ≠ 0) : exec i s = .next s := by
  have hexp := not_expired h
  rcases hi with ⟨rfl, rfl⟩ | ⟨rfl, rfl⟩ | ⟨rfl, rfl⟩ | ⟨rfl, rfl⟩
  all_goals exact whenEnabled_of_not hexp

/-- No state is both left in zero time and held (R18). -/
theorem holding_of_instantaneous {p : PState} (h : p.instantaneous = true) : p.holding = false := by
  cases p with
  | pFetch | pWalk | pNext => rfl
  | pIdle | pOn | pOff | pWgap | pLgap => cases h

theorem tickEnabled_iff :
    tickEnabled s = true ↔ s.pState.holding = true ∨ (s.phase ≠ .play ∧ s.pState.instantaneous = false) := by
  simp [tickEnabled]

theorem exec_tick_disabled (h : s.pState.instantaneous = true ∨ (s.pState.holding = false ∧ s.phase = .play)) :
    exec .tick s = .next s :=
  whenEnabled_of_not <| by
    rw [tickEnabled_iff]
    rcases h with hinst | ⟨hhold, hplay⟩
    · simp [hinst, holding_of_instantaneous hinst]
    · simp [hhold, hplay]

/-! ### The NEXT rows -/

theorem lastCode_iff : lastCode s = true ↔ s.rdIdx = s.seqLen - 1 := by simp [lastCode]

theorem exec_nextLetter_disabled (h : s.pState ≠ .pNext ∨ s.rdIdx = s.seqLen - 1 ∨ s.curGap = true) :
    exec .nextLetter s = .next s :=
  whenEnabled_of_not <| by
    simp only [Bool.and_eq_true, beq_iff_eq, Bool.not_eq_true', ← Bool.not_eq_true, lastCode_iff]
    rintro ⟨⟨hnext, hlast⟩, hgap⟩
    rcases h with h | h | h
    · exact h hnext
    · exact hlast h
    · exact hgap h

theorem exec_nextGap_disabled (h : s.pState ≠ .pNext ∨ s.rdIdx = s.seqLen - 1 ∨ s.curGap = false) :
    exec .nextGap s = .next s :=
  whenEnabled_of_not <| by
    simp only [Bool.and_eq_true, beq_iff_eq, Bool.not_eq_true', ← Bool.not_eq_true, lastCode_iff]
    rintro ⟨⟨hnext, hlast⟩, hgap⟩
    rcases h with h | h | h
    · exact h hnext
    · exact hlast h
    · exact Bool.eq_false_iff.mp h hgap

theorem exec_nextLast_disabled (h : s.pState ≠ .pNext ∨ s.rdIdx ≠ s.seqLen - 1) : exec .nextLast s = .next s :=
  whenEnabled_of_not <| by
    rw [Bool.and_eq_true, beq_iff_eq, lastCode_iff]
    rintro ⟨hnext, hlast⟩
    exact h.elim (· hnext) (· hlast)

/-! ### The transcript FIFO -/

theorem exec_append_eq {sym : Symbol} : exec (.append sym) s =
    whenEnabled (!fifoFull s) (fun t => fifoStore sym (emit (.append sym) t)) s := rfl

theorem exec_appendDrop_eq {sym : Symbol} : exec (.appendDrop sym) s =
    whenEnabled (fifoFull s) (fun t => raise .transcriptOverflow (emit (.append sym) t)) s := rfl

theorem exec_append_disabled {sym : Symbol} (h : 512 ≤ s.count.toNat) : exec (.append sym) s = .next s :=
  exec_append_eq.trans (whenEnabled_of_not (by simp [fifoFull_iff.mpr h]))

theorem exec_appendDrop_disabled {sym : Symbol} (h : s.count.toNat < 512) : exec (.appendDrop sym) s = .next s :=
  exec_appendDrop_eq.trans (whenEnabled_of_not (by rw [fifoFull_iff]; omega))

end

/-- Settles O55: each row's condition fails, so the row leaves the state as it is. -/
theorem operationsThatAreNotEnabledDoNothing : Obligations.OperationsThatAreNotEnabledDoNothing := fun _ =>
  ⟨fun _ => exec_lookup_of_le,
    exec_writeStart_disabled, exec_seqOverflow_disabled, exec_playStart_disabled,
    fun hp _ => exec_fetchingRow_elsewhere hp,
    fun _ hp hc =>
      ⟨exec_gap_disabled hp hc, exec_fetchLetter_disabled hp hc, fun _ => exec_code_disabled hp hc,
        fun _ => exec_codeOther_disabled hp hc⟩,
    exec_walkEnd_disabled,
    fun _ _ => exec_windowRow_disabled,
    fun _ _ => exec_expiry_disabled,
    exec_nextLetter_disabled, exec_nextGap_disabled, exec_nextLast_disabled,
    exec_tick_disabled,
    fun h _ => exec_append_disabled h, fun h _ => exec_appendDrop_disabled h⟩

/-! ## What a step performs -/

section
variable {s : State}

/-! ### The block's own work, by the player's state -/

theorem ownWork_of_fetch {c : Code} (hp : s.pState = .pFetch) (hc : reads s c) : ownWork s = .ok (.sc16 c) := by
  simp [ownWork, hp, currentCode_of_reads hc]

theorem ownWork_of_walk (hp : s.pState = .pWalk) :
    ownWork s = .ok (if s.bitCnt.toNat < 16 then .win3 (window s.shreg) else .op .walkEnd) := by
  simp [ownWork, hp]

theorem ownWork_of_next (hp : s.pState = .pNext) :
    ownWork s = .ok (.op (if s.rdIdx = s.seqLen - 1 then .nextLast else if s.curGap then .nextGap else .nextLetter)) := by
  simp [ownWork, hp, lastCode_iff]

theorem ownWork_of_time (hp : s.pState.instantaneous = false) : ownWork s = .ok (.op .tick) := by
  unfold ownWork
  cases hs : s.pState with
  | pIdle | pOn | pOff | pWgap | pLgap => rfl
  | pFetch | pWalk | pNext => rw [hs] at hp; cases hp

/-- An outstanding DRAIN comes before the block's own work (log entry 3). -/
theorem idleWork_of_no_drain (h : s.drainLeft = 0) : idleWork s = ownWork s := if_pos h

theorem idleWork_of_drain (h : s.drainLeft ≠ 0) : idleWork s = .ok (.op (.drain s.drainLeft)) := if_neg h

/-! ### The fetch, by the next entry of the schedule -/

/-- A symbol on the bench is fetched before any entry of the schedule (log entry 20). -/
theorem fetch_of_bench {b : Byte} {rest : List Byte} (h : s.bench = b :: rest) :
    fetch s = .ok (.sym8 b, { s with bench := rest }) := by
  simp [fetch, h]

/-- No entry is taken from the schedule where none is left, or where the offer that is first must wait. -/
theorem fetchTurn_of_idle {e : Encoded} (he : idleWork s = .ok e)
    (ht : s.turns = [] ∨ ∃ o rest, s.turns = .offer o :: rest ∧ mustWait o s = true) : fetchTurn s = .ok (e, s) := by
  rcases ht with ht | ⟨o, rest, ht, hwait⟩
  · simp [fetchTurn, ht, he, Except.map]
  · simp [fetchTurn, ht, hwait, he, Except.map]

theorem fetchTurn_of_own {e : Encoded} {rest : List Turn} (ht : s.turns = .own :: rest) (he : ownWork s = .ok e) :
    fetchTurn s = .ok (e, { s with turns := rest }) := by
  simp [fetchTurn, ht, he, Except.map]

theorem fetchTurn_of_reader {rest : List Turn} (ht : s.turns = .reader :: rest) :
    fetchTurn s = .ok (.op (.drain s.drainLeft), { s with turns := rest }) := by
  simp [fetchTurn, ht]

theorem fetchTurn_of_offer {o : Offer} {rest : List Turn} (ht : s.turns = .offer o :: rest)
    (hgo : mustWait o s = false) : fetchTurn s = .ok (offerInput o, { s with turns := rest }) := by
  simp [fetchTurn, ht, hgo]

/-- In the block, with nothing on the bench, a step performs what the agents' next turn gives. -/
theorem step_of_fetchTurn {t : State} {e : Encoded} {i : Instr} (hb : s.bench = []) (hf : fetchTurn s = .ok (e, t))
    (hd : decode e = .ok i) : step s = exec i t :=
  step_of_fetch ((fetch_of_no_bench hb).trans hf) hd

end

/-- Settles O56: by the kind of the schedule's next entry, each through what is fetched there. -/
theorem aStepPerformsTheDecodedInstruction : Obligations.AStepPerformsTheDecodedInstruction :=
  ⟨⟨fun _ _ => ownWork_of_fetch, fun _ => ownWork_of_walk, fun _ => ownWork_of_next, fun _ => ownWork_of_time⟩,
    fun _ => ⟨idleWork_of_no_drain, idleWork_of_drain⟩,
    fun _ _ _ hb he hd ht => step_of_fetchTurn hb (fetchTurn_of_idle he ht) hd,
    fun _ _ _ _ hb ht he hd => step_of_fetchTurn hb (fetchTurn_of_own ht he) hd,
    fun _ _ hb ht => step_of_fetchTurn hb (fetchTurn_of_reader ht) rfl,
    fun _ _ _ _ hb ht hgo hd => step_of_fetchTurn hb (fetchTurn_of_offer ht hgo) hd,
    fun _ _ _ _ hb hd => step_of_fetch (fetch_of_bench hb) hd⟩

end Sys2Proof.Machine
end

section
/-! PROOFS of the statements of spec/10_state.md: the invariants of R50 hold after RESET and every step keeps them, so no
step reads an entry that nothing has written (R50 item 5), and what such a read would be (R25, R36; log entry 2). -/

namespace Sys2Proof.Machine

/-! ## A read of an unwritten entry -/

section
variable {s : State}

theorem currentCode_of_unwritten (hidx : s.rdIdx.toNat < 512) (hmem : memRead s.seqMem s.rdIdx.toNat = none) :
    currentCode s = .error .unwrittenEntry := by
  simp [currentCode, hmem, Nat.not_le.mpr hidx]

theorem whenFetched_of_error {sel : Code → Bool} {op : Code → State → State} {f : Fault} (hp : s.pState = .pFetch)
    (hc : currentCode s = .error f) : whenFetched sel op s = .fault f := by
  simp [whenFetched, hp, hc]

theorem whenReadable_of_unwritten {k : State → State} (h : memRead s.fifoMem s.rdPtr.toNat = none) :
    whenReadable k s = .fault .unwrittenEntry := by
  simp [whenReadable, h]

theorem not_fifoEmpty_of_pos (h : 0 < s.count.toNat) : ¬ fifoEmpty s = true := by
  rw [fifoEmpty_iff]
  intro h0
  simp [h0] at h

theorem execPop_of_pos (h : 0 < s.count.toNat) : execPop s = whenReadable id s :=
  if_neg (not_fifoEmpty_of_pos h)

theorem execDrain_of_pos {n : Nat} (hn : n ≠ 0) (h : 0 < s.count.toNat) :
    execDrain n s = whenReadable (fun t => { t with drainLeft := n - 1 }) s :=
  if_neg (not_or.mpr ⟨hn, not_fifoEmpty_of_pos h⟩)

end

/-- Settles O25: every fetching row reads the code first, and the read fails. -/
theorem unwrittenCodeStopsTheFetch : Obligations.UnwrittenCodeStopsTheFetch := by
  intro i s hp hidx hmem hi
  have hc := currentCode_of_unwritten hidx hmem
  rcases hi with rfl | rfl | ⟨k, rfl⟩ | ⟨c, rfl⟩
  · exact whenFetched_of_error hp hc
  · exact whenFetched_of_error hp hc
  · exact (exec_code k s).trans (whenFetched_of_error hp hc)
  · exact whenFetched_of_error hp hc

/-- Settles O45: with a symbol unread both rows read the entry at `rd_ptr`, and the read fails. -/
theorem unwrittenSymbolStopsThePop : Obligations.UnwrittenSymbolStopsThePop := fun _ hcount hmem =>
  ⟨(execPop_of_pos hcount).trans (whenReadable_of_unwritten hmem),
    fun n => (execDrain_of_pos n.succ_ne_zero hcount).trans (whenReadable_of_unwritten hmem)⟩

/-! ## The invariants by the part of the state they speak of -/

/-- The invariants of what is stored: the memories, the sequence, the FIFO, the builder's registers. -/
structure StoresOk (s : State) : Prop where
  mem : MemOk s
  seq : SeqOk s
  fifo : FifoOk s
  build : s.phase = .build → BuildOk s

/-- `t` has the registers and memories of `s` that `StoresOk` reads. A field that `t`'s update leaves alone holds by `rfl`
and is not written out, so an update that leaves them all alone has the proof without fields. -/
structure SameStores (s t : State) : Prop where
  phase : t.phase = s.phase := by rfl
  pendingSpace : t.pendingSpace = s.pendingSpace := by rfl
  boundary : t.boundary = s.boundary := by rfl
  seqLen : t.seqLen = s.seqLen := by rfl
  seqMem : t.seqMem = s.seqMem := by rfl
  fifoMem : t.fifoMem = s.fifoMem := by rfl
  wrPtr : t.wrPtr = s.wrPtr := by rfl
  rdPtr : t.rdPtr = s.rdPtr := by rfl
  count : t.count = s.count := by rfl

/-- `t` has the registers of `s` that the player's invariants read, and the same sequence. -/
structure SamePlayer (s t : State) : Prop where
  phase : t.phase = s.phase := by rfl
  seqLen : t.seqLen = s.seqLen := by rfl
  seqMem : t.seqMem = s.seqMem := by rfl
  pState : t.pState = s.pState := by rfl
  rdIdx : t.rdIdx = s.rdIdx := by rfl
  shreg : t.shreg = s.shreg := by rfl
  bitCnt : t.bitCnt = s.bitCnt := by rfl
  curElem : t.curElem = s.curElem := by rfl
  waitCnt : t.waitCnt = s.waitCnt := by rfl
  led : t.led = s.led := by rfl

section
variable {s t : State}

theorem Inv.stores (h : Inv s) : StoresOk s := ⟨h.mem, h.seq, h.fifo, h.build⟩

theorem StoresOk.inv (h : StoresOk s) (player : PlayerOk s) (play : s.phase = .play → PlayOk s) : Inv s :=
  ⟨h.mem, h.seq, h.fifo, h.build, player, play⟩

theorem SeqOk.congr (h : SeqOk s) (hb : t.boundary = s.boundary) (hl : t.seqLen = s.seqLen)
    (hm : t.seqMem = s.seqMem) : SeqOk t where
  boundary_le := by simpa only [hb, hl] using h.boundary_le
  seqLen_le := by simpa only [hl] using h.seqLen_le
  written := by simpa only [hl, hm] using h.written

theorem FifoOk.congr (h : FifoOk s) (hm : t.fifoMem = s.fifoMem) (hw : t.wrPtr = s.wrPtr)
    (hr : t.rdPtr = s.rdPtr) (hc : t.count = s.count) : FifoOk t where
  count_le := by simpa only [hc] using h.count_le
  pointers := by simpa only [hw, hr, hc] using h.pointers
  written := by simpa only [hm, hr, hc] using h.written

theorem BuildOk.congr (h : BuildOk s) (hp : t.pendingSpace = s.pendingSpace) (hb : t.boundary = s.boundary)
    (hl : t.seqLen = s.seqLen) (hm : t.seqMem = s.seqMem) : BuildOk t where
  flag := by simpa only [hp, hl, hm] using h.flag
  no_letter := by simpa only [hb, hp] using h.no_letter
  last_letter := by simpa only [hb, hm] using h.last_letter
  no_two_gaps := by simpa only [hl, hm] using h.no_two_gaps
  first_letter := by simpa only [hl, hm] using h.first_letter

theorem StoresOk.congr (h : StoresOk s) (e : SameStores s t) : StoresOk t where
  mem := ⟨by simpa only [e.seqMem] using h.mem.seqMem, by simpa only [e.fifoMem] using h.mem.fifoMem⟩
  seq := h.seq.congr e.boundary e.seqLen e.seqMem
  fifo := h.fifo.congr e.fifoMem e.wrPtr e.rdPtr e.count
  build := fun hb => (h.build (e.phase ▸ hb)).congr e.pendingSpace e.boundary e.seqLen e.seqMem

theorem PlayerOk.congr (h : PlayerOk s) (e : SamePlayer s t) : PlayerOk t where
  bitCnt_le := by simpa only [e.bitCnt] using h.bitCnt_le
  led := by simpa only [e.led, e.pState] using h.led
  waiting := by simpa only [e.waitCnt, e.pState] using h.waiting
  active := by simpa only [e.pState, e.phase] using h.active
  walk := by simpa only [e.pState, e.seqMem, e.rdIdx, e.shreg, e.bitCnt] using h.walk
  element := by simpa only [e.pState, e.shreg, e.curElem, e.bitCnt] using h.element

/-- The sequence being played stays; only where the player stands in it is to be checked. -/
theorem PlayOk.move (h : PlayOk s) (hl : t.seqLen = s.seqLen) (hm : t.seqMem = s.seqMem)
    (hidx : t.rdIdx.toNat < s.seqLen.toNat)
    (hgap : t.pState = .pLgap → t.rdIdx.toNat + 1 < s.seqLen.toNat) : PlayOk t where
  nonempty := by simpa only [hl] using h.nonempty
  index := by simpa only [hl] using hidx
  ends_in_letter := by simpa only [hl, hm] using h.ends_in_letter
  gap_has_next := by simpa only [hl] using hgap

theorem PlayOk.congr (h : PlayOk s) (e : SamePlayer s t) : PlayOk t :=
  h.move e.seqLen e.seqMem (e.rdIdx ▸ h.index) (by simpa only [e.pState, e.rdIdx] using h.gap_has_next)

/-- The invariants of a state that stores what `s` stores: the player's are left to check. -/
theorem StoresOk.inv_of_same (h : StoresOk s) (e : SameStores s t) (player : PlayerOk t)
    (play : t.phase = .play → PlayOk t) : Inv t :=
  (h.congr e).inv player play

/-- The invariants read neither the schedule nor the bench, nor the sticky flags, nor what the observer keeps. -/
theorem Inv.congr (h : Inv s) (es : SameStores s t) (ep : SamePlayer s t) : Inv t :=
  (h.stores.congr es).inv (h.player.congr ep) fun hp => (h.play (ep.phase ▸ hp)).congr ep

end

/-! ## The reset state -/

/-- A player at rest has no code to follow: its invariants are those of `led`, the hold and the phase. -/
theorem playerOk_of_not_walking {s : State} (hbits : s.bitCnt.toNat ≤ 16) (hled : s.led = false)
    (hwait : 0 < s.waitCnt.toNat ↔ s.pState.holding = true) (hactive : s.pState ≠ .pIdle ↔ s.phase = .play)
    (hrest : s.pState.walking = false) : PlayerOk s where
  bitCnt_le := hbits
  led := by
    rw [hled]
    constructor
    · intro h; cases h
    · intro hon; rw [hon] at hrest; cases hrest
  waiting := hwait
  active := hactive
  walk := fun h => by rw [hrest] at h; cases h
  element := fun h => by
    cases hp : s.pState with
    | pOn | pOff => rw [hp] at hrest; cases hrest
    | pIdle | pFetch | pWalk | pWgap | pNext | pLgap => rw [hp] at h; cases h

theorem storesOk_reset : StoresOk State.reset where
  mem := ⟨reset_memories_wf.1, reset_memories_wf.2⟩
  seq := ⟨Nat.le_refl 0, Nat.zero_le 512, fun k hk => absurd hk (Nat.not_lt_zero k)⟩
  fifo := ⟨Nat.zero_le 512, rfl, fun k hk => absurd hk (Nat.not_lt_zero k)⟩
  build := fun h => by cases h

/-- Settles O58: nothing is stored, and the player is idle. -/
theorem invariantsHoldAtReset : Obligations.InvariantsHoldAtReset :=
  storesOk_reset.inv
    (playerOk_of_not_walking (Nat.zero_le 16) rfl (by decide) (by decide) rfl)
    (fun h => by cases h)

/-- RESET performed in any state gives the invariants, whatever held before (R292). -/
theorem inv_resetOp (s : State) : Inv (resetOp s) :=
  Inv.congr invariantsHoldAtReset {} {}

/-! ## The transcript FIFO -/

/-- A register of 10 bits that counts to 512 does not wrap (R24, R29, R38). -/
theorem toNat_succ_of_lt {x : BitVec 10} (h : x.toNat < 512) : (x + 1).toNat = x.toNat + 1 := by
  bv_omega

theorem toNat_pred_of_pos {x : BitVec 10} (h : 0 < x.toNat) : (x - 1).toNat = x.toNat - 1 :=
  BitVec.toNat_sub_of_le (by bv_omega)

/-- A pointer of 9 bits advances modulo 512 (R37). -/
theorem toNat_pointer_succ (p : BitVec 9) : (p + 1).toNat = (p.toNat + 1) % 512 := BitVec.toNat_add p 1

section
variable {s : State}

/-- Storing a symbol where there is room (R233): the entry written lies after all unread ones. -/
theorem fifoOk_fifoStore (h : FifoOk s) (sym : Symbol) (hroom : s.count.toNat < 512) : FifoOk (fifoStore sym s) where
  count_le := by
    rw [fifoStore_count, toNat_succ_of_lt hroom]
    exact hroom
  pointers := by
    rw [fifoStore_count, toNat_succ_of_lt hroom, fifoStore_wrPtr, fifoStore_rdPtr, toNat_pointer_succ, h.pointers]
    omega
  written := by
    intro k hk
    rw [fifoStore_count, toNat_succ_of_lt hroom] at hk
    rw [fifoStore_fifoMem, fifoStore_rdPtr, h.pointers]
    by_cases hlast : k = s.count.toNat
    · exact ⟨sym, by rw [hlast, memRead_memWrite_same]⟩
    · obtain ⟨y, hy⟩ := h.written k (by omega)
      exact ⟨y, by rw [memRead_memWrite_other _ _ (by omega), hy]⟩

/-- Removing the oldest symbol (R236). -/
theorem fifoOk_fifoTake (h : FifoOk s) (b : Byte) (hne : 0 < s.count.toNat) : FifoOk (fifoTake b s) := by
  have hcount := toNat_pred_of_pos hne
  have hptr : ∀ k, ((s.rdPtr + 1).toNat + k) % 512 = (s.rdPtr.toNat + (k + 1)) % 512 := by
    intro k
    rw [toNat_pointer_succ]
    omega
  exact
    { count_le := by
        rw [fifoTake_count, hcount]
        exact (Nat.sub_le _ _).trans h.count_le
      pointers := by
        rw [fifoTake_count, fifoTake_rdPtr, fifoTake_wrPtr, hcount, hptr, Nat.sub_add_cancel hne]
        exact h.pointers
      written := fun k hk => by
        rw [fifoTake_count, hcount] at hk
        rw [fifoTake_fifoMem, fifoTake_rdPtr, hptr]
        exact h.written (k + 1) (by omega) }

/-- APPEND, stored or dropped, keeps what is stored in order (R233, R234). -/
theorem storesOk_emitAppend (h : StoresOk s) (sym : Symbol) : StoresOk (emitAppend sym s) := by
  have hbuild : (emitAppend sym s).phase = .build → BuildOk (emitAppend sym s) := fun hb =>
    (h.build (by simpa using hb)).congr (by simp) (by simp) (by simp) (by simp)
  have hseq : SeqOk (emitAppend sym s) := h.seq.congr (by simp) (by simp) (by simp)
  rcases emitAppend_cases sym s with ⟨hroom, heq⟩ | ⟨_, heq⟩
  · have hfifo : FifoOk (emit (.append sym) s) := h.fifo.congr rfl rfl rfl rfl
    refine ⟨⟨by simpa using h.mem.seqMem, ?_⟩, hseq, ?_, hbuild⟩
    · rw [heq, fifoStore_fifoMem]
      exact Memory.wf_memWrite _ h.mem.fifoMem s.wrPtr.isLt
    · rw [heq]
      exact fifoOk_fifoStore hfifo sym hroom
  · rw [heq]
    exact h.congr {}

theorem samePlayer_emitAppend (sym : Symbol) (s : State) : SamePlayer s (emitAppend sym s) := by
  constructor <;> simp

theorem inv_emitAppend (h : Inv s) (sym : Symbol) : Inv (emitAppend sym s) :=
  (storesOk_emitAppend h.stores sym).inv (h.player.congr (samePlayer_emitAppend sym s)) fun hp =>
    (h.play (by simpa using hp)).congr (samePlayer_emitAppend sym s)

theorem inv_fifoTake (h : Inv s) (b : Byte) (hne : 0 < s.count.toNat) : Inv (fifoTake b s) where
  mem := ⟨h.mem.seqMem, h.mem.fifoMem⟩
  seq := h.seq.congr rfl rfl rfl
  fifo := fifoOk_fifoTake h.fifo b hne
  build := fun hb => (h.build hb).congr rfl rfl rfl rfl
  player := h.player.congr {}
  play := fun hp => (h.play hp).congr {}

end

/-! ## The sequence builder -/

section
variable {s t : State}

/-- Outside a play the player is idle (R50 item 8). -/
theorem Inv.pIdle_of_not_play (h : Inv s) (hp : s.phase ≠ .play) : s.pState = .pIdle :=
  not_not.mp fun hne => hp (h.player.active.mp hne)

theorem PlayerOk.led_eq_false (h : PlayerOk s) (hp : s.pState ≠ .pOn) : s.led = false :=
  Bool.eq_false_iff.mpr fun hled => hp (h.led.mp hled)

/-- In a state that holds nothing `wait_cnt` is 0 (R50 item 7). -/
theorem PlayerOk.waitCnt_eq_zero (h : PlayerOk s) (hp : s.pState.holding = false) : s.waitCnt.toNat = 0 := by
  have hwait := h.waiting
  rw [hp] at hwait
  simpa using hwait

/-- While the player is idle what the builder and the FIFO store has no effect on its invariants. -/
theorem PlayerOk.of_idle (h : PlayerOk s) (hidle : s.pState = .pIdle) (hp : t.pState = .pIdle)
    (hphase : t.phase ≠ .play) (hbits : t.bitCnt = s.bitCnt) (hled : t.led = s.led)
    (hwait : t.waitCnt = s.waitCnt) : PlayerOk t :=
  playerOk_of_not_walking (by rw [hbits]; exact h.bitCnt_le)
    (by rw [hled]; exact h.led_eq_false (by simp [hidle]))
    (by rw [hwait, h.waitCnt_eq_zero (by simp [hidle, PState.holding]), hp]; simp [PState.holding])
    (by simp [hp, hphase])
    (by rw [hp]; rfl)

/-- WRITE_START leaves an empty sequence in phase BUILD (R163). -/
theorem inv_beginWrite (h : Inv s) (hp : s.phase ≠ .play) : Inv (beginWrite s) where
  mem := ⟨h.mem.seqMem, h.mem.fifoMem⟩
  seq := ⟨Nat.le_refl 0, Nat.zero_le 512, fun k hk => absurd hk (Nat.not_lt_zero k)⟩
  fifo := h.fifo.congr rfl rfl rfl rfl
  build := fun _ =>
    { flag := by simp
      no_letter := fun _ => rfl
      last_letter := fun hb => absurd hb (Nat.not_lt_zero 0)
      no_two_gaps := fun k hk => absurd hk (Nat.not_lt_zero (k + 1))
      first_letter := fun hl => absurd hl (Nat.not_lt_zero 0) }
  player :=
    have hidle := h.pIdle_of_not_play hp
    h.player.of_idle hidle hidle (by simp) rfl rfl rfl
  play := fun hplay => by cases hplay

/-- A text-port word's own operation finds the invariants, in phase BUILD. -/
theorem inv_writeBegun (h : Inv s) (hp : s.phase ≠ .play) : Inv (writeBegun s) ∧ (writeBegun s).phase = .build := by
  unfold writeBegun
  split
  · exact ⟨inv_beginWrite h hp, rfl⟩
  · rename_i hidle
    refine ⟨h, ?_⟩
    cases hs : s.phase with
    | idle => exact absurd hs hidle
    | build => rfl
    | play => exact absurd hs hp

/-- Appending a code keeps the entries before it (R62) and all that is said of the sequence. -/
theorem SeqOk.append_code (h : SeqOk s) {c : Code} (hroom : s.seqLen.toNat < 512)
    (hmem : t.seqMem = memWrite s.seqMem s.seqLen.toNat c) (hlen : t.seqLen = s.seqLen + 1)
    (hbound : t.boundary.toNat ≤ s.seqLen.toNat + 1) : SeqOk t := by
  have hlen' : t.seqLen.toNat = s.seqLen.toNat + 1 := by rw [hlen, toNat_succ_of_lt hroom]
  refine ⟨by omega, by omega, fun k hk => ?_⟩
  rw [hmem, memRead_memWrite]
  split
  · rfl
  · exact h.written k (by omega)

/-- In phase BUILD an appended code, which becomes a gap only after a letter, keeps the gaps apart and the first entry a
letter (R50 item 2). -/
theorem BuildOk.append_code (h : BuildOk s) {c : Code} (hroom : s.seqLen.toNat < 512)
    (hgap : c = gapCode → 0 < s.seqLen.toNat ∧ memRead s.seqMem (s.seqLen.toNat - 1) ≠ some gapCode)
    (hmem : t.seqMem = memWrite s.seqMem s.seqLen.toNat c) (hlen : t.seqLen = s.seqLen + 1)
    (hflag : t.pendingSpace = false ↔ c ≠ gapCode)
    (hnone : t.boundary = 0 → t.pendingSpace = true)
    (hlast : 0 < t.boundary.toNat → ∃ k : Letter, memRead t.seqMem (t.boundary.toNat - 1) = some (romWord k)) :
    BuildOk t := by
  have hlen' : t.seqLen.toNat = s.seqLen.toNat + 1 := by rw [hlen, toNat_succ_of_lt hroom]
  have hnew : memRead t.seqMem s.seqLen.toNat = some c := by rw [hmem, memRead_memWrite_same]
  have hold : ∀ k, k < s.seqLen.toNat → memRead t.seqMem k = memRead s.seqMem k := fun k hk => by
    rw [hmem, memRead_memWrite_other _ _ (Nat.ne_of_lt hk)]
  refine ⟨?_, hnone, hlast, fun k hk => ?_, fun _ => ?_⟩
  · rw [hflag, hlen', Nat.add_sub_cancel, hnew]
    simp
  · rintro ⟨hfst, hsnd⟩
    by_cases hk' : k + 1 < s.seqLen.toNat
    · rw [hold k (by omega)] at hfst
      rw [hold _ hk'] at hsnd
      exact h.no_two_gaps k hk' ⟨hfst, hsnd⟩
    · have hend : k + 1 = s.seqLen.toNat := by omega
      rw [hend, hnew, Option.some_inj] at hsnd
      rw [hold k (by omega), show k = s.seqLen.toNat - 1 by omega] at hfst
      exact (hgap hsnd).2 hfst
  · intro hfst
    by_cases hempty : s.seqLen.toNat = 0
    · rw [hempty] at hnew
      rw [hnew, Option.some_inj] at hfst
      exact absurd (hgap hfst).1 (by omega)
    · rw [hold 0 (by omega)] at hfst
      exact h.first_letter (by omega) hfst

/-- SequenceOverflow is recorded beside everything the invariants read (R167). -/
theorem inv_seqOverflow (h : Inv s) : Inv { s with seqOvf := true } :=
  h.congr {} {}

/-- LETTER (R164, R167). -/
theorem inv_letterOp (h : Inv s) (hb : s.phase = .build) (k : Letter) : Inv (letterOp k s) := by
  rcases letterOp_cases k s with ⟨_, heq⟩ | ⟨hroom, heq⟩
  · rw [heq]; exact inv_seqOverflow h
  · have hidle := h.pIdle_of_not_play (by simp [hb])
    have hlen := toNat_succ_of_lt hroom
    rw [heq]
    exact
      { mem := ⟨Memory.wf_memWrite _ h.mem.seqMem hroom, h.mem.fifoMem⟩
        seq := h.seq.append_code hroom rfl rfl hlen.le
        fifo := h.fifo.congr rfl rfl rfl rfl
        build := fun _ => (h.build hb).append_code hroom (fun hc => absurd hc (romWord_ne_gap k)) rfl rfl
          (by simp [romWord_ne_gap k])
          (fun h0 => by simp only at h0; rw [h0] at hlen; simp at hlen)
          (fun _ => ⟨k, by simp only [hlen, Nat.add_sub_cancel, memRead_memWrite_same]⟩)
        player := h.player.of_idle hidle hidle (by simp [hb]) rfl rfl rfl
        play := fun hp => by simp [hb] at hp }

/-- SPACE (R165, R167): the gap that is appended follows a letter. -/
theorem inv_spaceOp (h : Inv s) (hb : s.phase = .build) : Inv (spaceOp s) := by
  rcases spaceOp_cases s with ⟨_, heq⟩ | ⟨_, _, heq⟩ | ⟨hpend, hroom, heq⟩
  · rw [heq]; exact h
  · rw [heq]; exact inv_seqOverflow h
  · have hidle := h.pIdle_of_not_play (by simp [hb])
    have hbuild := h.build hb
    have hle := h.seq.boundary_le
    rw [heq]
    exact
      { mem := ⟨Memory.wf_memWrite _ h.mem.seqMem hroom, h.mem.fifoMem⟩
        seq := h.seq.append_code hroom rfl rfl (hle.trans (Nat.le_succ _))
        fifo := h.fifo.congr rfl rfl rfl rfl
        build := fun _ => hbuild.append_code hroom (fun _ => hbuild.flag.mp hpend) rfl rfl (by simp) (fun _ => rfl)
          (fun h0 => by
            obtain ⟨k, hk⟩ := hbuild.last_letter h0
            simp only at h0
            exact ⟨k, by rw [← hk]; exact memRead_memWrite_other _ _ (by simp only; omega)⟩)
        player := h.player.of_idle hidle hidle (by simp [hb]) rfl rfl rfl
        play := fun hp => by simp [hb] at hp }

/-- END (R168): the sequence cut at `boundary` ends in a letter, so a play has something to end in. -/
theorem inv_endOp (h : Inv s) (hb : s.phase = .build) : Inv (endOp s) := by
  have hidle := h.pIdle_of_not_play (by simp [hb])
  have hseq : SeqOk { s with seqLen := s.boundary } :=
    ⟨Nat.le_refl _, h.seq.boundary_le.trans h.seq.seqLen_le,
      fun k hk => h.seq.written k (Nat.lt_of_lt_of_le hk h.seq.boundary_le)⟩
  rcases endOp_cases s with ⟨_, heq⟩ | ⟨hpos, heq⟩
  · rw [heq]
    exact
      { mem := ⟨h.mem.seqMem, h.mem.fifoMem⟩
        seq := hseq.congr rfl rfl rfl
        fifo := h.fifo.congr rfl rfl rfl rfl
        build := fun hp => by cases hp
        player := h.player.of_idle hidle hidle (by simp) rfl rfl rfl
        play := fun hp => by cases hp }
  · have hpos' : 0 < s.boundary.toNat := by bv_omega
    obtain ⟨k, hk⟩ := (h.build hb).last_letter hpos'
    rw [heq]
    exact
      { mem := ⟨h.mem.seqMem, h.mem.fifoMem⟩
        seq := hseq.congr rfl rfl rfl
        fifo := h.fifo.congr rfl rfl rfl rfl
        build := fun hp => by cases hp
        player := playerOk_of_not_walking h.player.bitCnt_le (h.player.led_eq_false (by simp [hidle]))
          (by simp [h.player.waitCnt_eq_zero (by simp [hidle, PState.holding]), PState.holding]) (by simp) rfl
        play := fun _ =>
          { nonempty := hpos'
            index := hpos'
            ends_in_letter := by simp [hk, romWord_ne_gap]
            gap_has_next := fun hp => by cases hp } }

end

/-! ## The player -/

/-- `u` is `s` at the moment the player leaves the state it is in: no hold is outstanding and the transducer is off. -/
structure ReadyToLeave (s u : State) : Prop extends SameStores s u where
  rdIdx : u.rdIdx = s.rdIdx := by rfl
  shreg : u.shreg = s.shreg := by rfl
  bitCnt : u.bitCnt = s.bitCnt := by rfl
  waitCnt : u.waitCnt = 0
  led : u.led = false

/-- The state in which the expiry rule of a hold is performed (R200). -/
def holdEnded (s : State) : State := { s with now := s.now + 1, waitCnt := 0 }

section
variable {s : State}

/-- An instantaneous state can be left as it is (R50 item 7). -/
theorem Inv.readyToLeave (h : Inv s) (hp : s.pState.instantaneous = true) : ReadyToLeave s s where
  waitCnt := BitVec.eq_of_toNat_eq (h.player.waitCnt_eq_zero (holding_of_instantaneous hp))
  led := h.player.led_eq_false fun hon => by rw [hon] at hp; cases hp

/-- A hold other than that of `P_ON` is left when it has ended. -/
theorem Inv.readyToLeave_holdEnded (h : Inv s) (hp : s.pState ≠ .pOn) : ReadyToLeave s (holdEnded s) where
  waitCnt := rfl
  led := h.player.led_eq_false hp

/-- The player is at work only in phase PLAY (R50 item 8). -/
theorem Inv.play_of_active (h : Inv s) (hp : s.pState ≠ .pIdle) : s.phase = .play := h.player.active.mp hp

/-- FETCH of a word gap (R194). -/
theorem inv_fetchGapOp (h : Inv s) (hp : s.pState = .pFetch) : Inv (fetchGapOp s) := by
  have hphase := h.play_of_active (by simp [hp])
  have hplay := h.play hphase
  have hgap : StoresOk { s with curGap := true } := h.stores.congr {}
  refine (storesOk_emitAppend hgap .space).inv_of_same {} ?_ fun _ => ?_
  · exact playerOk_of_not_walking (by simpa using h.player.bitCnt_le)
      (by simpa using h.player.led_eq_false (by simp [hp])) (by simp [wordGapUnits, PState.holding])
      (by simp [hphase]) rfl
  · exact hplay.move (by simp) (by simp) (by simpa using hplay.index) (by simp)

/-- FETCH of a letter code (R195): the walk starts at the whole code. -/
theorem inv_fetchLetterOp (h : Inv s) (hp : s.pState = .pFetch) {c : Code} (hc : currentCode s = .ok c) :
    Inv (fetchLetterOp c s) := by
  have hphase := h.play_of_active (by simp [hp])
  have hplay := h.play hphase
  obtain ⟨_, hread⟩ := currentCode_ok.mp hc
  refine h.stores.inv_of_same {} ?_ fun _ => ?_
  · exact
      { bitCnt_le := Nat.zero_le 16
        led := by simp [h.player.led_eq_false (by simp [hp])]
        waiting := by simp [h.player.waitCnt_eq_zero (by simp [hp, PState.holding]), PState.holding]
        active := by simp [hphase]
        walk := fun _ => ⟨c, hread, by simp [shl16]⟩
        element := fun he => by cases he }
  · exact hplay.move rfl rfl hplay.index (by simp)

/-- Start of an element (R197, R198): the window starts the element that is remembered. -/
theorem inv_startElement (h : Inv s) {w : BitVec 3} {e : Elem} {sym : Symbol} {k : BitVec 2}
    (hw : atWindow w s = true) (he : elementAt w = some e) (hk : 0 < k.toNat) : Inv (startElement e sym k s) := by
  obtain ⟨hp, hbits, hwin⟩ := atWindow_iff.mp hw
  have hphase := h.play_of_active (by simp [hp])
  have hplay := h.play hphase
  have hon : StoresOk (emitOn s) := h.stores.congr {}
  refine (storesOk_emitAppend hon sym).inv_of_same {} ?_ fun _ => ?_
  · exact
      { bitCnt_le := by simpa using h.player.bitCnt_le
        led := by simp
        waiting := by simp [hk, PState.holding]
        active := by simp [hphase]
        walk := fun _ => by simpa using h.player.walk (by simp [hp, PState.walking])
        element := fun _ => by simp [hwin, he, hbits] }
  · exact hplay.move (by simp) (by simp) (by simpa using hplay.index) (by simp)

/-- Shifting twice is shifting once by the sum (R14). -/
theorem shl16_shl16 (c : Code) (m n : Nat) : shl16 (shl16 c m) n = shl16 c (m + n) :=
  (BitVec.shiftLeft_add c m n).symm

theorem elementAt_eq_dash : ∀ {w : BitVec 3}, elementAt w = some .dash → w = 0b111 := by decide

/-- Zeros enter from the right, so a window of three ones is found at bit position 13 at the latest (R197, R202). -/
theorem le_of_window_dash {c : Code} {n : Nat} (h : window (shl16 c n) = 0b111) : n + 3 ≤ 16 := by
  have hbit : (window (shl16 c n)).getLsbD 0 = true := by rw [h]; rfl
  simp only [window, shl16, BitVec.getLsbD_extractLsb', BitVec.getLsbD_shiftLeft, Bool.and_eq_true,
    Bool.not_eq_true', decide_eq_false_iff_not] at hbit
  omega

/-- The advance after an element does not pass bit position 16 (R50 item 3, R202). -/
theorem bitCnt_add_advance_le {c : Code} {n : Nat} {e : Elem} (he : elementAt (window (shl16 c n)) = some e)
    (hn : n < 16) : n + advance e ≤ 16 := by
  cases e with
  | dash => exact le_of_window_dash (elementAt_eq_dash he)
  | dot => exact hn

/-- Advancing over bit positions that remain keeps the walk (R199, R202). -/
theorem inv_advanceBits (h : Inv s) {u : State} (hu : ReadyToLeave s u) (hwalk : s.pState.walking = true) {n : Nat}
    (hn : s.bitCnt.toNat + n ≤ 16) : Inv (advanceBits n u) := by
  have hphase := h.play_of_active (by intro hp; rw [hp] at hwalk; cases hwalk)
  have hplay := h.play hphase
  obtain ⟨c, hread, hc⟩ := h.player.walk hwalk
  have hbits : (advanceBits n u).bitCnt.toNat = s.bitCnt.toNat + n := by
    rw [advanceBits_bitCnt, hu.bitCnt, BitVec.toNat_add, BitVec.toNat_ofNat]
    omega
  refine (h.stores.congr hu.toSameStores).inv_of_same {} ?_ fun _ => ?_
  · exact
      { bitCnt_le := by rw [hbits]; exact hn
        led := by simp [hu.led]
        waiting := by simp [hu.waitCnt, PState.holding]
        active := by simp [hu.phase, hphase]
        walk := fun _ => ⟨c, by simpa [hu.seqMem, hu.rdIdx] using hread,
          by rw [hbits, advanceBits_shreg, hu.shreg, hc, shl16_shl16]⟩
        element := fun he => by cases he }
  · exact hplay.move (by simp [hu.seqLen]) (by simp [hu.seqMem]) (by simpa [hu.rdIdx] using hplay.index) (by simp)

/-- PAD (R199). -/
theorem inv_pad (h : Inv s) {w : BitVec 3} (hw : atWindow w s = true) : Inv (advanceBits 1 s) := by
  obtain ⟨hp, hbits, _⟩ := atWindow_iff.mp hw
  exact inv_advanceBits h (h.readyToLeave (by rw [hp]; rfl)) (by rw [hp]; rfl) hbits

/-- The code is finished (R196, R203). -/
theorem inv_toNextOp (h : Inv s) {u : State} (hu : ReadyToLeave s u) (hp : s.pState ≠ .pIdle) : Inv (toNextOp u) := by
  have hphase := h.play_of_active hp
  have hplay := h.play hphase
  refine (h.stores.congr hu.toSameStores).inv_of_same {} ?_ fun _ => ?_
  · exact playerOk_of_not_walking (by simpa [hu.bitCnt] using h.player.bitCnt_le) (by simp [hu.led])
      (by simp [hu.waitCnt, PState.holding]) (by simp [hu.phase, hphase]) rfl
  · exact hplay.move (by simp [hu.seqLen]) (by simp [hu.seqMem]) (by simpa [hu.rdIdx] using hplay.index) (by simp)

/-- The player goes on to a code that follows (R205, R206). -/
theorem inv_nextCodeOp (h : Inv s) {u : State} (hu : ReadyToLeave s u) (hp : s.pState ≠ .pIdle)
    (hnext : s.rdIdx.toNat + 1 < s.seqLen.toNat) : Inv (nextCodeOp u) := by
  have hphase := h.play_of_active hp
  have hle := h.seq.seqLen_le
  have hrd : (nextCodeOp u).rdIdx.toNat = s.rdIdx.toNat + 1 := by
    rw [nextCodeOp_rdIdx, hu.rdIdx, toNat_succ_of_lt (by omega)]
  refine (h.stores.congr hu.toSameStores).inv_of_same {} ?_ fun _ => ?_
  · exact playerOk_of_not_walking (by simpa [hu.bitCnt] using h.player.bitCnt_le) (by simp [hu.led])
      (by simp [hu.waitCnt, PState.holding]) (by simp [hu.phase, hphase]) rfl
  · exact (h.play hphase).move (by simp [hu.seqLen]) (by simp [hu.seqMem]) (by rw [hrd]; exact hnext) (by simp)

/-- A code that is not the last has one after it (R204, R205). -/
theorem PlayOk.following (h : PlayOk s) (hlast : s.rdIdx ≠ s.seqLen - 1) : s.rdIdx.toNat + 1 < s.seqLen.toNat := by
  have hidx := h.index
  have hne : s.rdIdx.toNat ≠ (s.seqLen - 1).toNat := fun heq => hlast (BitVec.eq_of_toNat_eq heq)
  have hsub := toNat_pred_of_pos h.nonempty
  omega

/-- NEXT after a letter that is not the last (R204): the gap's following code is there. -/
theorem inv_nextLetterOp (h : Inv s) (hp : s.pState = .pNext) (hlast : s.rdIdx ≠ s.seqLen - 1) :
    Inv (nextLetterOp s) := by
  have hphase := h.play_of_active (by simp [hp])
  have hplay := h.play hphase
  refine (storesOk_emitAppend h.stores .space).inv_of_same {} ?_ fun _ => ?_
  · exact playerOk_of_not_walking (by simpa using h.player.bitCnt_le)
      (by simpa using h.player.led_eq_false (by simp [hp])) (by simp [letterGapUnits, PState.holding])
      (by simp [hphase]) rfl
  · exact hplay.move (by simp) (by simp) (by simpa using hplay.index)
      (fun _ => by simpa using hplay.following hlast)

/-- NEXT after the last code (R207): the block is idle again. -/
theorem inv_nextLastOp (h : Inv s) (hp : s.pState = .pNext) : Inv (nextLastOp s) := by
  have hst := storesOk_emitAppend h.stores .newline
  exact
    { mem := ⟨hst.mem.seqMem, hst.mem.fifoMem⟩
      seq := hst.seq.congr rfl rfl rfl
      fifo := hst.fifo.congr rfl rfl rfl rfl
      build := fun hb => by cases hb
      player := playerOk_of_not_walking (by simpa using h.player.bitCnt_le)
        (by simpa using h.player.led_eq_false (by simp [hp]))
        (by simp [h.player.waitCnt_eq_zero (by simp [hp, PState.holding]), PState.holding]) (by simp) rfl
      play := fun hplay => by cases hplay }

/-! ### Time -/

/-- TICK outside a hold, inside one, and at the end of one (R200). -/
theorem tickOp_cases (s : State) :
    (s.pState.holding = false ∧ tickOp s = { s with now := s.now + 1 }) ∨
      (s.pState.holding = true ∧ 1 < s.waitCnt.toNat ∧
        tickOp s = { s with now := s.now + 1, waitCnt := s.waitCnt - 1 }) ∨
      (s.pState.holding = true ∧ tickOp s = expiryOp (holdEnded s)) := by
  unfold tickOp
  cases hh : s.pState.holding with
  | false => exact .inl ⟨rfl, by simp⟩
  | true =>
    by_cases hw : 1 < s.waitCnt.toNat
    · exact .inr (.inl ⟨rfl, hw, by simp [hw]⟩)
    · exact .inr (.inr ⟨rfl, by simp [hw, holdEnded]⟩)

/-- Expiry of `P_ON` (R201): the transducer is off and the same element's gap is held. -/
theorem inv_onExpiry (h : Inv s) (hp : s.pState = .pOn) : Inv (onExpiryOp (holdEnded s)) := by
  have hphase := h.play_of_active (by simp [hp])
  have hplay := h.play hphase
  have hheld : StoresOk (holdEnded s) := h.stores.congr {}
  refine hheld.inv_of_same {} ?_ fun _ => ?_
  · exact
      { bitCnt_le := by simpa [holdEnded] using h.player.bitCnt_le
        led := by simp
        waiting := by simp [elemGapUnits, PState.holding]
        active := by simp [holdEnded, hphase]
        walk := fun _ => by simpa [holdEnded] using h.player.walk (by simp [hp, PState.walking])
        element := fun _ => by simpa [holdEnded] using h.player.element (by simp [hp, PState.inElement]) }
  · exact hplay.move (by simp [holdEnded]) (by simp [holdEnded]) (by simpa [holdEnded] using hplay.index) (by simp)

/-- Expiry of `P_OFF` (R202): the advance is the element's, and its bit positions remain. -/
theorem inv_offExpiry (h : Inv s) (hp : s.pState = .pOff) : Inv (offExpiryOp (holdEnded s)) := by
  have hwalk : s.pState.walking = true := by simp [hp, PState.walking]
  obtain ⟨c, _, hc⟩ := h.player.walk hwalk
  obtain ⟨helem, hbits⟩ := h.player.element (by simp [hp, PState.inElement])
  rw [hc] at helem
  exact inv_advanceBits h (h.readyToLeave_holdEnded (by simp [hp])) hwalk (bitCnt_add_advance_le helem hbits)

/-- The expiry rule of each holding state keeps the invariants (R201 to R203, R206). -/
theorem inv_expiry (h : Inv s) (hh : s.pState.holding = true) : Inv (expiryOp (holdEnded s)) := by
  have hstate : (holdEnded s).pState = s.pState := rfl
  unfold expiryOp
  cases hp : s.pState with
  | pOn => simpa only [hstate, hp] using inv_onExpiry h hp
  | pOff => simpa only [hstate, hp] using inv_offExpiry h hp
  | pWgap =>
    simpa only [hstate, hp] using inv_toNextOp h (h.readyToLeave_holdEnded (by simp [hp])) (by simp [hp])
  | pLgap =>
    have hnext := (h.play (h.play_of_active (by simp [hp]))).gap_has_next hp
    simpa only [hstate, hp] using inv_nextCodeOp h (h.readyToLeave_holdEnded (by simp [hp])) (by simp [hp]) hnext
  | pIdle | pFetch | pWalk | pNext => rw [hp] at hh; cases hh

/-- A hold that is not over counts down and stays a hold (R200). -/
theorem inv_countDown (h : Inv s) (hh : s.pState.holding = true) (hw : 1 < s.waitCnt.toNat) :
    Inv { s with now := s.now + 1, waitCnt := s.waitCnt - 1 } := by
  have hleft : 0 < (s.waitCnt - 1).toNat := by bv_omega
  refine h.stores.inv_of_same {} ?_ fun hp => ?_
  · exact ⟨h.player.bitCnt_le, h.player.led, iff_of_true hleft hh, h.player.active, h.player.walk, h.player.element⟩
  · exact (h.play hp).move rfl rfl (h.play hp).index (h.play hp).gap_has_next

/-- TICK (R200). -/
theorem inv_tickOp (h : Inv s) : Inv (tickOp s) := by
  rcases tickOp_cases s with ⟨_, heq⟩ | ⟨hh, hw, heq⟩ | ⟨hh, heq⟩
  · rw [heq]
    exact h.congr {} {}
  · rw [heq]; exact inv_countDown h hh hw
  · rw [heq]; exact inv_expiry h hh

/-- Under the invariants no hold stands at 0, so no expiry row is enabled outside a TICK (R50 item 7). -/
theorem Inv.waitCnt_ne_zero (h : Inv s) (hh : s.pState.holding = true) : s.waitCnt ≠ 0 := fun h0 => by
  have hpos := h.player.waiting.mpr hh
  simp [h0] at hpos

end

/-! ## Every step -/

/-- Every instruction keeps the invariants, those that no agent steps alone too. -/
theorem exec_keeps_inv {s t : State} {i : Instr} (h : Inv s) (he : exec i s = .next t) : Inv t := by
  cases exec_moves i he with
  | stay => exact h
  | begin hp => exact inv_beginWrite h (by simp [hp])
  | letter _ k _ hp =>
    obtain ⟨hw, hb⟩ := inv_writeBegun h hp
    exact inv_letterOp hw hb k
  | space _ _ hp =>
    obtain ⟨hw, hb⟩ := inv_writeBegun h hp
    exact inv_spaceOp hw hb
  | ignore _ hp => exact (inv_writeBegun h hp).1
  | finish d hp =>
    obtain ⟨hw, hb⟩ := inv_writeBegun h hp
    exact inv_endOp hw hb
  | overflow _ _ => exact inv_seqOverflow h
  | play hphase hp _ => exact absurd hp (h.player.active.mpr hphase)
  | gap hp _ => exact inv_fetchGapOp h hp
  | code _ c hp hc _ => exact inv_fetchLetterOp h hp hc
  | dash hw => exact inv_startElement h hw rfl (by decide)
  | dot _ w _ hw helem => exact inv_startElement h hw helem (by decide)
  | pad xx hw => exact inv_pad h hw
  | walkEnd hp _ => exact inv_toNextOp h (h.readyToLeave (by rw [hp]; rfl)) (by simp [hp])
  | tick _ => exact inv_tickOp h
  | onExpiry hp hw | offExpiry hp hw | wgapExpiry hp hw | lgapExpiry hp hw =>
    exact absurd hw (h.waitCnt_ne_zero (hp ▸ rfl))
  | nextLetter hp hl _ => exact inv_nextLetterOp h hp hl
  | nextGap hp hl _ =>
    have hnext := (h.play (h.play_of_active (by simp [hp]))).following hl
    exact inv_nextCodeOp h (h.readyToLeave (by rw [hp]; rfl)) (by simp [hp]) hnext
  | nextLast hp _ => exact inv_nextLastOp h hp
  | append _ sym _ => exact inv_emitAppend h sym
  | drop sym _ => exact inv_emitAppend h sym
  | pop _ b n _ hne _ => exact (inv_fifoTake h b (by bv_omega)).congr {} {}
  | drained _ | lookup _ => exact h.congr {} {}
  | reset => exact inv_resetOp s

/-- Taking an entry of the schedule or a symbol of the bench keeps the invariants. -/
theorem fetch_keeps_inv {s t : State} {e : Encoded} (h : Inv s) (hf : fetch s = .ok (e, t)) : Inv t := by
  rw [fetch_frame hf]
  exact h.congr {} {}

/-- Settles O59: a step is a fetch, which the invariants do not read, and an instruction, which keeps them. -/
theorem everyStepKeepsTheInvariants : Obligations.EveryStepKeepsTheInvariants := by
  intro s t h hstep
  obtain ⟨e, u, i, hf, _, hexec⟩ := step_next hstep
  exact exec_keeps_inv (fetch_keeps_inv h hf) hexec

/-! ## No step faults -/

section
variable {s : State}

/-- The player fetches a code that the current write has written (R50 items 4 and 5). -/
theorem Inv.currentCode_ok (h : Inv s) (hp : s.pState = .pFetch) : ∃ c, currentCode s = .ok c := by
  have hidx := (h.play (h.play_of_active (by simp [hp]))).index
  have hle := h.seq.seqLen_le
  obtain ⟨c, hc⟩ := Option.isSome_iff_exists.mp (h.seq.written _ hidx)
  exact ⟨c, Machine.currentCode_ok.mpr ⟨by omega, hc⟩⟩

/-- The oldest unread entry is written (R50 item 5). -/
theorem Inv.oldest_written (h : Inv s) (hne : 0 < s.count.toNat) :
    ∃ b, memRead s.fifoMem s.rdPtr.toNat = some b := by
  obtain ⟨y, hy⟩ := h.fifo.written 0 hne
  rw [Nat.add_zero, Nat.mod_eq_of_lt s.rdPtr.isLt] at hy
  exact ⟨_, hy⟩

theorem Inv.whenFetched_next (h : Inv s) (sel : Code → Bool) (op : Code → State → State) :
    ∃ t, whenFetched sel op s = .next t := by
  by_cases hp : s.pState = .pFetch
  · obtain ⟨c, hc⟩ := h.currentCode_ok hp
    exact ⟨_, Machine.whenFetched_next.mpr (.inr ⟨hp, c, hc, rfl⟩)⟩
  · exact ⟨s, whenFetched_elsewhere hp⟩

theorem Inv.whenReadable_next (h : Inv s) (hne : 0 < s.count.toNat) (k : State → State) :
    ∃ t, whenReadable k s = .next t := by
  obtain ⟨b, hb⟩ := h.oldest_written hne
  exact ⟨_, Machine.whenReadable_next.mpr ⟨b, hb, rfl⟩⟩

theorem execPop_next (h : Inv s) : ∃ t, execPop s = .next t := by
  by_cases hc : s.count = 0
  · exact ⟨s, if_pos (fifoEmpty_iff.mpr hc)⟩
  · have hpos : 0 < s.count.toNat := by bv_omega
    rw [execPop_of_pos hpos]
    exact h.whenReadable_next hpos _

theorem execDrain_next (h : Inv s) (n : Nat) : ∃ t, execDrain n s = .next t := by
  by_cases hc : n = 0 ∨ fifoEmpty s = true
  · exact ⟨_, if_pos hc⟩
  · obtain ⟨hn, hne⟩ := not_or.mp hc
    have hpos : 0 < s.count.toNat := by
      rw [fifoEmpty_iff] at hne
      bv_omega
    rw [execDrain_of_pos hn hpos]
    exact h.whenReadable_next hpos _

/-- Under the invariants every instruction answers a next state: only a fetch and a POP read an entry. -/
theorem exec_next (h : Inv s) (i : Instr) : ∃ t, exec i s = .next t := by
  induction i using Instr_byLetter with
  | upper k => exact ⟨_, exec_upper k s⟩
  | lower k => exact ⟨_, exec_lower k s⟩
  | code k => rw [exec_code]; exact h.whenFetched_next _ _
  | gap => exact h.whenFetched_next _ _
  | codeOther c => exact h.whenFetched_next _ _
  | fetchLetter => exact h.whenFetched_next _ _
  | pop => exact execPop_next h
  | drain n => exact execDrain_next h n
  | _ => exact ⟨_, rfl⟩

/-! ### What is fetched decodes -/

theorem ownWork_decodes (h : Inv s) : ∃ e i, ownWork s = .ok e ∧ decode e = .ok i := by
  cases hp : s.pState with
  | pFetch =>
    obtain ⟨c, hc⟩ := h.currentCode_ok hp
    exact ⟨_, _, ownWork_of_fetch hp (Machine.currentCode_ok.mp hc), rfl⟩
  | pWalk =>
    by_cases hb : s.bitCnt.toNat < 16
    · exact ⟨_, _, (ownWork_of_walk hp).trans (by rw [if_pos hb]), rfl⟩
    · exact ⟨_, _, (ownWork_of_walk hp).trans (by rw [if_neg hb]), rfl⟩
  | pNext => exact ⟨_, _, ownWork_of_next hp, rfl⟩
  | pIdle | pOn | pOff | pWgap | pLgap => exact ⟨_, _, ownWork_of_time (by rw [hp]; rfl), rfl⟩

theorem idleWork_decodes (h : Inv s) : ∃ e i, idleWork s = .ok e ∧ decode e = .ok i := by
  by_cases hd : s.drainLeft = 0
  · rw [idleWork_of_no_drain hd]; exact ownWork_decodes h
  · exact ⟨_, _, idleWork_of_drain hd, rfl⟩

theorem offerInput_decodes (o : Offer) : ∃ i, decode (offerInput o) = .ok i := by
  cases o with
  | word _ | text _ | tick | pop | drain _ | reset => exact ⟨_, rfl⟩

/-- In the block every fetch gives an instruction. -/
theorem fetchTurn_decodes (h : Inv s) : ∃ e t i, fetchTurn s = .ok (e, t) ∧ decode e = .ok i := by
  obtain ⟨eo, io, howork, hodec⟩ := ownWork_decodes h
  obtain ⟨ei, ii, hiwork, hidec⟩ := idleWork_decodes h
  cases ht : s.turns with
  | nil => exact ⟨ei, _, ii, fetchTurn_of_idle hiwork (.inl ht), hidec⟩
  | cons turn rest =>
    cases turn with
    | own => exact ⟨eo, _, io, fetchTurn_of_own ht howork, hodec⟩
    | reader => exact ⟨_, _, _, fetchTurn_of_reader ht, rfl⟩
    | offer o =>
      cases hw : mustWait o s with
      | true => exact ⟨ei, _, ii, fetchTurn_of_idle hiwork (.inr ⟨o, rest, ht, hw⟩), hidec⟩
      | false =>
        obtain ⟨i, hi⟩ := offerInput_decodes o
        exact ⟨_, _, i, fetchTurn_of_offer ht hw, hi⟩

/-- Each of the four symbols has its row (R97). -/
theorem decodeSym8_of_mem {b : Byte} (h : b ∈ symbols) : ∃ i, decodeSym8 b = .ok i := by
  simp only [symbols, List.mem_cons, List.not_mem_nil, or_false] at h
  rcases h with rfl | rfl | rfl | rfl
  all_goals exact ⟨_, rfl⟩

/-- What is fetched and decoded is performed, under the invariants without a fault. -/
theorem step_next_of_decoded {t : State} {e : Encoded} {i : Instr} (h : Inv s) (hf : fetch s = .ok (e, t))
    (hd : decode e = .ok i) : ∃ u, step s = .next u := by
  rw [step_of_fetch hf hd]
  exact exec_next (fetch_keeps_inv h hf) i

end

/-- Settles O60: by what stands next, a byte on the bench or the agents' turn. -/
theorem noStepFaultsUnderTheInvariants : Obligations.NoStepFaultsUnderTheInvariants := by
  intro s h
  cases hb : s.bench with
  | nil =>
    obtain ⟨e, t, i, hf, hd⟩ := fetchTurn_decodes h
    exact .inl (step_next_of_decoded h ((fetch_of_no_bench hb).trans hf) hd)
  | cons b rest =>
    have hf := fetch_of_bench hb
    cases hd : decodeSym8 b with
    | ok i => exact .inl (step_next_of_decoded h hf hd)
    | error r =>
      refine .inr ⟨by simp [step, hf, decode, hd], b, rest, fun hmem => ?_, rfl⟩
      obtain ⟨i, hi⟩ := decodeSym8_of_mem hmem
      rw [hd] at hi
      cases hi

end Sys2Proof.Machine
end

section
/-! PROOFS of the statements of spec/20_memory.md: each memory is written at one index and nowhere else (R62, R63), and the
FIFO returns its symbols in the order in which it accepted them (R71). -/

namespace Sys2Proof.Machine

/-! ## What a write begun leaves of the memories -/

section
variable (s : State)

@[simp] theorem writeBegun_seqMem : (writeBegun s).seqMem = s.seqMem := by
  unfold writeBegun; split <;> rfl

@[simp] theorem writeBegun_fifoMem : (writeBegun s).fifoMem = s.fifoMem := by
  unfold writeBegun; split <;> rfl

end

/-! ## `seq_mem`, written at `seq_len` -/

section
variable {s t : State} {a : Nat}

theorem memRead_letterOp_other (k : Letter) (h : a ≠ s.seqLen.toNat) :
    memRead (letterOp k s).seqMem a = memRead s.seqMem a := by
  rcases letterOp_cases k s with ⟨_, heq⟩ | ⟨_, heq⟩
  · rw [heq]
  · rw [heq, memRead_memWrite_other _ _ h]

theorem memRead_spaceOp_other (h : a ≠ s.seqLen.toNat) :
    memRead (spaceOp s).seqMem a = memRead s.seqMem a := by
  rcases spaceOp_cases s with ⟨_, heq⟩ | ⟨_, _, heq⟩ | ⟨_, _, heq⟩
  · rw [heq]
  · rw [heq]
  · rw [heq, memRead_memWrite_other _ _ h]

/-- Only the moves that take a letter or a space write `seq_mem`, and these at `seq_len` of the write begun. -/
theorem Moves.memRead_seqMem {i : Instr} (hm : Moves s i t) (hreset : i ≠ .reset)
    (hother : writesSeqMem i → s.phase ≠ .play → a ≠ (writeBegun s).seqLen.toNat) :
    memRead t.seqMem a = memRead s.seqMem a := by
  cases hm with
  | letter _ k hi hp => rw [memRead_letterOp_other k (hother hi hp), writeBegun_seqMem]
  | space _ hi hp => rw [memRead_spaceOp_other (hother hi hp), writeBegun_seqMem]
  | reset => exact absurd rfl hreset
  | stay | overflow | drained | lookup => rfl
  | begin | ignore | finish => simp
  | play | gap | code | dash | dot | pad | walkEnd | tick | onExpiry | offExpiry | wgapExpiry | lgapExpiry
  | nextLetter | nextGap | nextLast => simp
  | append | drop | pop => simp

end

/-- Settles O18: each of the three ways out of writing at `seq_len` excludes the moves that write there. -/
theorem builderStoresOnlyAtSeqLen : Obligations.BuilderStoresOnlyAtSeqLen := by
  intro i s t a he hreset hfree
  refine (exec_moves i he).memRead_seqMem hreset fun hi hp => ?_
  rcases hfree with hnot | hplay | hother
  · exact absurd hi hnot
  · exact absurd hplay hp
  · exact hother

/-! ## `fifo_mem`, written at `wr_ptr` -/

section
variable (s : State)

/-- APPEND writes one entry where there is room and none where the buffer is full (R233, R234). -/
theorem emitAppend_fifoMem (sym : Symbol) : (emitAppend sym s).fifoMem =
    if s.count.toNat < 512 then memWrite s.fifoMem s.wrPtr.toNat (symbolByte sym) else s.fifoMem := by
  rcases emitAppend_cases sym s with ⟨hroom, heq⟩ | ⟨hfull, heq⟩
  · rw [heq, if_pos hroom]; rfl
  · rw [heq, if_neg (Nat.not_lt.mpr hfull)]; rfl

/-! The player's moves that append a symbol write what its APPEND writes (R208). -/

theorem fetchGapOp_fifoMem : (fetchGapOp s).fifoMem = (emitAppend .space s).fifoMem :=
  (emitAppend_fifoMem { s with curGap := true } .space).trans (emitAppend_fifoMem s .space).symm

theorem startElement_fifoMem (e : Elem) (sym : Symbol) (k : BitVec 2) :
    (startElement e sym k s).fifoMem = (emitAppend sym s).fifoMem :=
  (emitAppend_fifoMem (emitOn s) sym).trans (emitAppend_fifoMem s sym).symm

theorem nextLetterOp_fifoMem : (nextLetterOp s).fifoMem = (emitAppend .space s).fifoMem := rfl

theorem nextLastOp_fifoMem : (nextLastOp s).fifoMem = (emitAppend .newline s).fifoMem := rfl

end

section
variable {s t : State} {a : Nat}

theorem memRead_emitAppend_other (sym : Symbol) (h : a ≠ s.wrPtr.toNat) :
    memRead (emitAppend sym s).fifoMem a = memRead s.fifoMem a := by
  rw [emitAppend_fifoMem]
  split
  · exact memRead_memWrite_other _ _ h
  · rfl

/-- Only the moves that append a symbol write `fifo_mem`, and these at `wr_ptr`; the dropped symbol of APPEND_DROP is
written nowhere. -/
theorem Moves.memRead_fifoMem {i : Instr} (hm : Moves s i t) (hreset : i ≠ .reset)
    (hother : appends i → a ≠ s.wrPtr.toNat) : memRead t.fifoMem a = memRead s.fifoMem a := by
  have happend (sym : Symbol) (hi : appends i) : memRead (emitAppend sym s).fifoMem a = memRead s.fifoMem a :=
    memRead_emitAppend_other sym (hother hi)
  cases hm with
  | gap => rw [fetchGapOp_fifoMem, happend _ (by simp [appends])]
  | dash => rw [startElement_fifoMem, happend _ (by simp [appends])]
  | dot _ _ hi => rw [startElement_fifoMem, happend _ (by rcases hi with ⟨x, rfl⟩ | rfl <;> simp [appends])]
  | nextLetter => rw [nextLetterOp_fifoMem, happend _ (by simp [appends])]
  | nextLast => rw [nextLastOp_fifoMem, happend _ (by simp [appends])]
  | append _ sym hi => exact happend sym hi
  | drop sym hfull => rw [emitAppend_fifoMem, if_neg (Nat.not_lt.mpr hfull)]
  | reset => exact absurd rfl hreset
  | stay | overflow | drained | lookup => rfl
  | begin | letter | space | ignore | finish => simp
  | play | code | pad | walkEnd | tick | onExpiry | offExpiry | wgapExpiry | lgapExpiry | nextGap => simp
  | pop => simp

end

/-- Settles O43: both exceptions to writing at `wr_ptr` say the same of an appending instruction. -/
theorem appendStoresOnlyAtWrPtr : Obligations.AppendStoresOnlyAtWrPtr := fun i _ _ _ he hreset hfree =>
  (exec_moves i he).memRead_fifoMem hreset fun hi => hfree.resolve_left (not_not_intro hi)

/-! ## The order of the FIFO -/

/-- The saturating increment, by its limit (R39, R242). -/
theorem satIncr_eq (d : BitVec 16) : satIncr d = if d = 0xFFFF then d else d + 1 := by
  unfold satIncr
  by_cases h : d = 0xFFFF
  · subst h; rfl
  · rw [if_neg h, if_pos (by bv_omega)]

/-- The APPEND the statements write out field by field is the machine's. -/
theorem appended_eq_emitAppend (sym : Symbol) (s : State) : appended sym s = emitAppend sym s := by
  unfold appended
  split
  · rename_i hroom; rw [emitAppend_of_room sym hroom]; rfl
  · rename_i hfull
    rw [emitAppend_of_full sym (Nat.not_lt.mp hfull), ← satIncr_eq]; rfl

section
variable {s t : State}

/-- A position counted from the advanced `rd_ptr` is the next one counted from `rd_ptr`, around the end of the memory
(R37). -/
theorem toNat_pointer_succ_add (p : BitVec 9) (k : Nat) :
    ((p + 1).toNat + k) % 512 = (p.toNat + (k + 1)) % 512 := by
  rw [toNat_pointer_succ]
  omega

theorem contents_congr (hm : t.fifoMem = s.fifoMem) (hr : t.rdPtr = s.rdPtr) (hc : t.count = s.count) :
    contents t = contents s := by
  simp only [contents, hm, hr, hc]

/-- The entry stored is the young end of the contents, and the unread entries before it stay as they are. -/
theorem contents_fifoStore (h : FifoOk s) (sym : Symbol) (hroom : s.count.toNat < 512) :
    contents (fifoStore sym s) = contents s ++ [some (symbolByte sym)] := by
  have hold : ∀ k ∈ List.range s.count.toNat,
      memRead (fifoStore sym s).fifoMem ((s.rdPtr.toNat + k) % 512) =
        memRead s.fifoMem ((s.rdPtr.toNat + k) % 512) := fun k hk => by
    rw [List.mem_range] at hk
    rw [fifoStore_fifoMem, h.pointers]
    exact memRead_memWrite_other _ _ (by omega)
  have hnew : memRead (fifoStore sym s).fifoMem ((s.rdPtr.toNat + s.count.toNat) % 512) =
      some (symbolByte sym) := by
    rw [fifoStore_fifoMem, h.pointers, memRead_memWrite_same]
  unfold contents
  rw [fifoStore_count, toNat_succ_of_lt hroom, fifoStore_rdPtr, List.range_succ, List.map_append,
    List.map_congr_left hold, List.map_singleton, hnew]

/-- POP takes the entry at `rd_ptr` from the old end of the contents. -/
theorem contents_eq_cons (b : Byte) (hne : 0 < s.count.toNat) :
    contents s = memRead s.fifoMem s.rdPtr.toNat :: contents (fifoTake b s) := by
  have hcount : s.count.toNat = (fifoTake b s).count.toNat + 1 := by
    rw [fifoTake_count, toNat_pred_of_pos hne, Nat.sub_add_cancel hne]
  have hfirst : (s.rdPtr.toNat + 0) % 512 = s.rdPtr.toNat := Nat.mod_eq_of_lt s.rdPtr.isLt
  unfold contents
  rw [hcount, List.range_succ_eq_map, List.map_cons, List.map_map, hfirst]
  simp only [Function.comp_def, Nat.succ_eq_add_one, fifoTake_fifoMem, fifoTake_rdPtr, toNat_pointer_succ_add]

/-- The oldest unread symbol of a sound FIFO stands at `rd_ptr`. -/
theorem FifoOk.oldest (h : FifoOk s) (hne : 0 < s.count.toNat) :
    ∃ y : Symbol, memRead s.fifoMem s.rdPtr.toNat = some (symbolByte y) := by
  obtain ⟨y, hy⟩ := h.written 0 hne
  rw [Nat.add_zero, Nat.mod_eq_of_lt s.rdPtr.isLt] at hy
  exact ⟨y, hy⟩

theorem fifoOk_emitAppend (h : FifoOk s) (sym : Symbol) : FifoOk (emitAppend sym s) := by
  rcases emitAppend_cases sym s with ⟨hroom, heq⟩ | ⟨_, heq⟩ <;> rw [heq]
  · exact fifoOk_fifoStore (s := emit (.append sym) s) (h.congr rfl rfl rfl rfl) sym hroom
  · exact h.congr rfl rfl rfl rfl

theorem contents_emitAppend_of_room (h : FifoOk s) (sym : Symbol) (hroom : s.count.toNat < 512) :
    contents (emitAppend sym s) = contents s ++ [some (symbolByte sym)] := by
  rw [emitAppend_of_room sym hroom]
  exact contents_fifoStore (h.congr rfl rfl rfl rfl) sym hroom

/-- A dropped symbol leaves no marker (R71, R234). -/
theorem contents_emitAppend_of_full (sym : Symbol) (hfull : 512 ≤ s.count.toNat) :
    contents (emitAppend sym s) = contents s := by
  rw [emitAppend_of_full sym hfull]
  exact contents_congr rfl rfl rfl

/-- POP of a sound FIFO that holds something takes its oldest symbol. -/
theorem exec_pop_of_fifoOk (h : FifoOk s) (hne : 0 < s.count.toNat) :
    ∃ y : Symbol, memRead s.fifoMem s.rdPtr.toNat = some (symbolByte y) ∧
      exec .pop s = .next (fifoTake (symbolByte y) s) := by
  obtain ⟨y, hy⟩ := h.oldest hne
  exact ⟨y, hy, (execPop_of_pos hne).trans (whenReadable_next.mpr ⟨_, hy, rfl⟩)⟩

end

/-- Settles O48: APPEND works at the young end of the contents, POP at the old one. -/
theorem fifoKeepsOrder : Obligations.FifoKeepsOrder := by
  intro sym s h
  rw [appended_eq_emitAppend]
  refine ⟨fun hroom => ⟨contents_emitAppend_of_room h sym hroom, fifoOk_emitAppend h sym⟩,
    fun hfull => ⟨contents_emitAppend_of_full sym hfull.ge, fifoOk_emitAppend h sym⟩, fun t hne hpop => ?_⟩
  obtain ⟨y, hy, hexec⟩ := exec_pop_of_fifoOk h hne
  obtain rfl : fifoTake (symbolByte y) s = t := Host.Outcome.next.inj (hexec.symm.trans hpop)
  exact ⟨y, hy ▸ contents_eq_cons _ hne, fifoTake_received _ _, fifoOk_fifoTake h _ hne⟩

end Sys2Proof.Machine
end

section
/-! PROOFS of the statements of spec/30_encoding.md: the classes of a text byte (R92), decoder and encoder as inverses of
each other (R90 to R99), the unique decoding of a code (R95), and the table's bare words (log entry 9). -/

namespace Sys2Proof.Machine

/-! ## The classes of a text byte -/

/-- The upper-case byte of a letter (R92). -/
def upperByte (k : Letter) : Byte := BitVec.ofNat 8 (0x41 + k.val)

/-- The lower-case byte of a letter (R92). -/
def lowerByte (k : Letter) : Byte := BitVec.ofNat 8 (0x61 + k.val)

theorem eq_ofNat_letter_iff {b : Byte} {k : Letter} {base : Nat} (hbase : base ≤ 0x61) :
    b = BitVec.ofNat 8 (base + k.val) ↔ b.toNat = base + k.val := by
  have hk := k.isLt
  rw [← BitVec.toNat_inj, BitVec.toNat_ofNat, Nat.mod_eq_of_lt (by omega)]

theorem eq_upperByte_iff {b : Byte} {k : Letter} : b = upperByte k ↔ b.toNat = 0x41 + k.val :=
  eq_ofNat_letter_iff (by decide)

theorem eq_lowerByte_iff {b : Byte} {k : Letter} : b = lowerByte k ↔ b.toNat = 0x61 + k.val :=
  eq_ofNat_letter_iff (by decide)

theorem fold_toNat (b : Byte) :
    (fold b).toNat = if 0x61 ≤ b.toNat ∧ b.toNat ≤ 0x7A then b.toNat - 0x20 else b.toNat := by
  unfold fold
  split <;> bv_omega

theorem classOfFolded_letter_iff {c : Byte} {k : Letter} : classOfFolded c = .letter k ↔ c.toNat = 0x41 + k.val := by
  have hk := k.isLt
  unfold classOfFolded
  split
  · rw [TextClass.letter.injEq, Fin.ext_iff]
    simp only
    omega
  · split
    all_goals
      simp only [reduceCtorEq, false_iff]
      omega

theorem classOfFolded_space_iff {c : Byte} : classOfFolded c = .space ↔ c = 0x20 := by
  unfold classOfFolded
  split
  · simp only [reduceCtorEq, false_iff]
    bv_omega
  · simp

/-- A byte is the letter `k` exactly when it is one of its two bytes. -/
theorem classify_letter_iff {b : Byte} {k : Letter} : classify b = .letter k ↔ b = upperByte k ∨ b = lowerByte k := by
  have hk := k.isLt
  rw [classify, classOfFolded_letter_iff, fold_toNat, eq_upperByte_iff, eq_lowerByte_iff]
  split <;> omega

theorem classify_space_iff {b : Byte} : classify b = .space ↔ b = 0x20 := by
  rw [classify, classOfFolded_space_iff, fold]
  split
  · bv_omega
  · rfl

/-! ## The decoder, format by format -/

/-- A value that no row matches is left to the default. -/
theorem lookup_eq_none_of_no_key {w : Nat} {rows : List (BitVec w × Instr)} {v : BitVec w}
    (h : v ∉ rows.map Prod.fst) : rows.lookup v = none :=
  List.lookup_eq_none_iff.mpr fun _ hr => bne_iff_ne.mpr fun hv => h (hv ▸ List.mem_map_of_mem hr)

/-! ### TXW9 -/

/-- Bit 8 of a text-port word selects END or BYTE, the low byte is the data (R91). -/
theorem decodeTxw9_append (e : BitVec 1) (b : Byte) :
    decodeTxw9 (e ++ b) = if e.getLsbD 0 then .endWord b else .byteWord b := by
  rw [decodeTxw9, BitVec.getLsbD_append, BitVec.extractLsb'_append_eq_right]
  rfl

theorem decodeTxw9_byteWord (b : Byte) : decodeTxw9 (0#1 ++ b) = .byteWord b := decodeTxw9_append 0 b

theorem decodeTxw9_endWord (b : Byte) : decodeTxw9 (1#1 ++ b) = .endWord b := decodeTxw9_append 1 b

/-- Every text-port word is a BYTE or an END word (R91). -/
theorem txw9_cases (w : BitVec 9) : ∃ b : Byte, w = 0#1 ++ b ∨ w = 1#1 ++ b := by
  have hw : w = w.extractLsb' 8 1 ++ w.extractLsb' 0 8 :=
    (BitVec.extractLsb'_append_extractLsb' (w := 1) (len := 8) (x := w)).symm
  refine ⟨w.extractLsb' 0 8, (BitVec.eq_zero_or_eq_one (w.extractLsb' 8 1)).imp (fun h => ?_) fun h => ?_⟩
  · exact hw.trans (by rw [h])
  · exact hw.trans (by rw [h])

/-! ### TEXT8 -/

theorem decodeText8_upper : ∀ k : Letter, decodeText8 (upperByte k) = .upper k := by decide

theorem decodeText8_lower : ∀ k : Letter, decodeText8 (lowerByte k) = .lower k := by decide

/-- No byte of a letter or space row is in the IGNORE class. -/
theorem classify_textRows : ∀ b ∈ textRows.map Prod.fst, classify b ≠ .other := by decide

theorem decodeText8_of_other {b : Byte} (h : classify b = .other) : decodeText8 b = .ignore b := by
  have hnone : textRows.lookup b = none := lookup_eq_none_of_no_key fun hkey => classify_textRows b hkey h
  simp [decodeText8, hnone]

/-- What a text byte decodes to, by its class. -/
theorem decodeText8_cases (b : Byte) :
    (∃ k, b = upperByte k ∧ decodeText8 b = .upper k) ∨ (∃ k, b = lowerByte k ∧ decodeText8 b = .lower k) ∨
      (b = 0x20 ∧ decodeText8 b = .space) ∨ (classify b = .other ∧ decodeText8 b = .ignore b) := by
  cases hb : classify b with
  | letter k =>
    rcases classify_letter_iff.mp hb with rfl | rfl
    · exact .inl ⟨k, rfl, decodeText8_upper k⟩
    · exact .inr (.inl ⟨k, rfl, decodeText8_lower k⟩)
  | space =>
    obtain rfl := classify_space_iff.mp hb
    exact .inr (.inr (.inl ⟨rfl, rfl⟩))
  | other => exact .inr (.inr (.inr ⟨rfl, decodeText8_of_other hb⟩))

/-! ### SC16 -/

theorem decodeSc16_code : ∀ k : Letter, decodeSc16 (romWord k) = .code k := by decide

/-- The SC16 rows stand for the word gap and for the ROM's codes. -/
theorem codeRows_keys : codeRows.map Prod.fst = gapCode :: rom := by decide

theorem decodeSc16_of_other {c : Code} (hgap : c ≠ gapCode) (hrom : c ∉ rom) : decodeSc16 c = .codeOther c := by
  have hnone : codeRows.lookup c = none :=
    lookup_eq_none_of_no_key (codeRows_keys ▸ List.not_mem_cons_of_ne_of_not_mem hgap hrom)
  simp [decodeSc16, hnone]

/-- What a code decodes to: GAP, a ROM code's row, or the default row. -/
theorem decodeSc16_cases (c : Code) :
    (c = gapCode ∧ decodeSc16 c = .gap) ∨ (∃ k, c = romWord k ∧ decodeSc16 c = .code k) ∨
      (c ≠ gapCode ∧ c ∉ rom ∧ decodeSc16 c = .codeOther c) := by
  by_cases hgap : c = gapCode
  · exact .inl ⟨hgap, hgap ▸ rfl⟩
  by_cases hrom : c ∈ rom
  · obtain ⟨k, rfl⟩ := List.mem_iff_get.mp hrom
    exact .inr (.inl ⟨k, rfl, decodeSc16_code k⟩)
  · exact .inr (.inr ⟨hgap, hrom, decodeSc16_of_other hgap hrom⟩)

/-! ### WIN3 and SYM8 -/

theorem decodeWin3_dot10 : ∀ x : BitVec 1, decodeWin3 (0b10#2 ++ x) = .dot10 x := by decide

theorem decodeWin3_pad : ∀ xx : BitVec 2, decodeWin3 (0#1 ++ xx) = .pad xx := by decide

theorem encode_decodeWin3 : ∀ w : BitVec 3, encode (decodeWin3 w) = .win3 w := by decide

theorem wellFormed_decodeWin3 : ∀ w : BitVec 3, (decodeWin3 w).wellFormed = true := by decide

/-- The SYM8 rows stand for the four symbols. -/
theorem symbolRows_keys : symbolRows.map Prod.fst = symbols := by decide

theorem decodeSym8_of_not_mem {b : Byte} (h : b ∉ symbols) : decodeSym8 b = .error .noSuchSymbol := by
  have hnone : symbolRows.lookup b = none := lookup_eq_none_of_no_key (symbolRows_keys ▸ h)
  simp [decodeSym8, hnone]

/-- Settles O4: the other formats are read without a check. -/
theorem onlyNonSymbolsAreRejected : Obligations.OnlyNonSymbolsAreRejected := by
  intro e
  constructor
  · rintro ⟨r, hr⟩
    cases e with
    | sym8 b =>
      refine ⟨b, rfl, fun hmem => ?_⟩
      obtain ⟨i, hi⟩ := decodeSym8_of_mem hmem
      rw [decode, hi] at hr
      cases hr
    | txw9 _ | text8 _ | sc16 _ | win3 _ | op _ => cases hr
  · rintro ⟨b, rfl, hb⟩
    exact ⟨_, decodeSym8_of_not_mem hb⟩

/-! ## Decoder and encoder -/

theorem encode_upper (k : Letter) : encode (.upper k) = .text8 (upperByte k) := by fin_cases k <;> rfl

theorem encode_lower (k : Letter) : encode (.lower k) = .text8 (lowerByte k) := by fin_cases k <;> rfl

theorem encode_code (k : Letter) : encode (.code k) = .sc16 (romWord k) := by fin_cases k <;> rfl

theorem wellFormed_ignore {b : Byte} : (Instr.ignore b).wellFormed = true ↔ classify b = .other := by
  simp [Instr.wellFormed]

theorem wellFormed_codeOther {c : Code} : (Instr.codeOther c).wellFormed = true ↔ c ≠ gapCode ∧ c ∉ rom := by
  simp [Instr.wellFormed]

/-- A well-formed instruction survives being encoded and decoded. -/
theorem decode_encode (i : Instr) : i.wellFormed = true → decode (encode i) = .ok i := by
  induction i using Instr_byLetter with
  | upper k => exact fun _ => by rw [encode_upper, decode, decodeText8_upper]
  | lower k => exact fun _ => by rw [encode_lower, decode, decodeText8_lower]
  | code k => exact fun _ => by rw [encode_code, decode, decodeSc16_code]
  | byteWord b => exact fun _ => congrArg Except.ok (decodeTxw9_byteWord b)
  | endWord b => exact fun _ => congrArg Except.ok (decodeTxw9_endWord b)
  | ignore b => exact fun h => congrArg Except.ok (decodeText8_of_other (wellFormed_ignore.mp h))
  | codeOther c =>
    intro h
    obtain ⟨hgap, hrom⟩ := wellFormed_codeOther.mp h
    exact congrArg Except.ok (decodeSc16_of_other hgap hrom)
  | dot10 x => exact fun _ => congrArg Except.ok (decodeWin3_dot10 x)
  | pad xx => exact fun _ => congrArg Except.ok (decodeWin3_pad xx)
  | _ => exact fun _ => rfl

theorem encode_decodeTxw9 (w : BitVec 9) : encode (decodeTxw9 w) = .txw9 w := by
  obtain ⟨b, rfl | rfl⟩ := txw9_cases w
  · rw [decodeTxw9_byteWord, encode]
  · rw [decodeTxw9_endWord, encode]

theorem encode_decodeText8 (b : Byte) : encode (decodeText8 b) = .text8 b := by
  rcases decodeText8_cases b with ⟨k, rfl, hi⟩ | ⟨k, rfl, hi⟩ | ⟨rfl, hi⟩ | ⟨_, hi⟩
  · rw [hi, encode_upper]
  · rw [hi, encode_lower]
  · rw [hi, encode]
  · rw [hi, encode]

theorem encode_decodeSc16 (c : Code) : encode (decodeSc16 c) = .sc16 c := by
  rcases decodeSc16_cases c with ⟨rfl, hi⟩ | ⟨k, rfl, hi⟩ | ⟨_, _, hi⟩
  · rw [hi, encode, gapCode]
  · rw [hi, encode_code]
  · rw [hi, encode]

/-- The rows of the four symbols have their byte and no operand. -/
theorem encode_and_wellFormed_of_decodeSym8 {b : Byte} {i : Instr} (h : decodeSym8 b = .ok i) :
    encode i = .sym8 b ∧ i.wellFormed = true := by
  by_cases hb : b ∈ symbols
  · simp only [symbols, List.mem_cons, List.not_mem_nil, or_false] at hb
    rcases hb with rfl | rfl | rfl | rfl
    all_goals
      cases h
      exact ⟨rfl, rfl⟩
  · rw [decodeSym8_of_not_mem hb] at h
    cases h

theorem encode_decodeOp (o : Op) : encode (decodeOp o) = .op o := by
  cases o with
  | _ => rfl

/-- What was decoded is encoded as it was. -/
theorem encode_of_decode {e : Encoded} {i : Instr} (h : decode e = .ok i) : encode i = e := by
  cases e with
  | txw9 w => cases h; exact encode_decodeTxw9 w
  | text8 b => cases h; exact encode_decodeText8 b
  | sc16 c => cases h; exact encode_decodeSc16 c
  | win3 w => cases h; exact encode_decodeWin3 w
  | sym8 b => exact (encode_and_wellFormed_of_decodeSym8 h).1
  | op o => cases h; exact encode_decodeOp o

theorem wellFormed_decodeTxw9 (w : BitVec 9) : (decodeTxw9 w).wellFormed = true := by
  obtain ⟨b, rfl | rfl⟩ := txw9_cases w
  · rw [decodeTxw9_byteWord]; rfl
  · rw [decodeTxw9_endWord]; rfl

theorem wellFormed_upper : ∀ k : Letter, (Instr.upper k).wellFormed = true := by decide

theorem wellFormed_lower : ∀ k : Letter, (Instr.lower k).wellFormed = true := by decide

theorem wellFormed_code : ∀ k : Letter, (Instr.code k).wellFormed = true := by decide

theorem wellFormed_decodeText8 (b : Byte) : (decodeText8 b).wellFormed = true := by
  rcases decodeText8_cases b with ⟨k, rfl, hi⟩ | ⟨k, rfl, hi⟩ | ⟨rfl, hi⟩ | ⟨hb, hi⟩
  · rw [hi]; exact wellFormed_upper k
  · rw [hi]; exact wellFormed_lower k
  · rw [hi]; rfl
  · rw [hi]; exact wellFormed_ignore.mpr hb

theorem wellFormed_decodeSc16 (c : Code) : (decodeSc16 c).wellFormed = true := by
  rcases decodeSc16_cases c with ⟨rfl, hi⟩ | ⟨k, rfl, hi⟩ | ⟨hgap, hrom, hi⟩
  · rw [hi]; rfl
  · rw [hi]; exact wellFormed_code k
  · rw [hi]; exact wellFormed_codeOther.mpr ⟨hgap, hrom⟩

/-- Settles O1: by the rows, each through its own format's table. -/
theorem decodeOfEncodeGivesBackTheInstruction : Obligations.DecodeOfEncodeGivesBackTheInstruction := decode_encode

/-- Settles O2: by the format of the value. -/
theorem encodeOfDecodeGivesBackTheWord : Obligations.EncodeOfDecodeGivesBackTheWord := fun _ _ => encode_of_decode

/-- Settles O3: by the format; a default row is read only where no other row matches. -/
theorem decodedBitFormatsAreWellFormed : Obligations.DecodedBitFormatsAreWellFormed := by
  intro e i hop h
  cases e with
  | txw9 w => cases h; exact wellFormed_decodeTxw9 w
  | text8 b => cases h; exact wellFormed_decodeText8 b
  | sc16 c => cases h; exact wellFormed_decodeSc16 c
  | win3 w => cases h; exact wellFormed_decodeWin3 w
  | sym8 b => exact (encode_and_wellFormed_of_decodeSym8 h).2
  | op o => exact absurd rfl hop

/-- Settles O5: each word is read off its own row. -/
theorem writtenWordsDecode : Obligations.WrittenWordsDecode :=
  ⟨rfl, rfl, rfl, rfl, rfl, rfl, rfl, rfl, rfl, rfl, rfl, rfl, rfl, rfl⟩

/-- Decoder and encoder determine each other: a byte reads as a well-formed instruction exactly where it encodes it. -/
theorem decodeText8_eq_iff {b : Byte} {i : Instr} (hi : i.wellFormed = true) :
    decodeText8 b = i ↔ encode i = .text8 b := by
  constructor
  · rintro rfl
    exact encode_decodeText8 b
  · intro h
    exact Except.ok.inj ((congrArg decode h).symm.trans (decode_encode i hi))

/-- Settles O6: the classes by the fold's arithmetic, the decoder's rows by their encodings. -/
theorem textBytesFallIntoTheirClasses : Obligations.TextBytesFallIntoTheirClasses := by
  intro b
  refine ⟨fun k => ?_, classify_space_iff, fun k => ?_, fun k => ?_, ?_, fun h => ?_, decodeText8_of_other⟩
  · rw [classify_letter_iff, eq_upperByte_iff, eq_lowerByte_iff]
  · rw [decodeText8_eq_iff (wellFormed_upper k), encode_upper, Encoded.text8.injEq, eq_comm, eq_upperByte_iff]
  · rw [decodeText8_eq_iff (wellFormed_lower k), encode_lower, Encoded.text8.injEq, eq_comm, eq_lowerByte_iff]
  · rw [decodeText8_eq_iff rfl, encode, Encoded.text8.injEq, eq_comm]
  · exact wellFormed_ignore.mp (h ▸ wellFormed_decodeText8 b)

/-! ## The walk of an encoded pattern -/

/-! ### One turn of the walk -/

section
variable {v : Code} {n : Nat}

theorem elementsFrom_pad (h : elementAt (window v) = none) : elementsFrom (n + 1) v = elementsFrom n (shl16 v 1) := by
  rcases n with _ | _ | n
  all_goals simp [elementsFrom, h]

theorem elementsFrom_dot (h : elementAt (window v) = some .dot) :
    elementsFrom (n + 1) v = .dot :: elementsFrom n (shl16 v 1) := by
  rcases n with _ | _ | n
  all_goals simp [elementsFrom, h]

theorem elementsFrom_dash (h : elementAt (window v) = some .dash) :
    elementsFrom (n + 3) v = .dash :: elementsFrom n (shl16 v 3) := by
  simp [elementsFrom, h]

end

/-- Zeros hold no element. -/
theorem elementsFrom_zero (n : Nat) : elementsFrom n 0 = [] := by
  induction n with
  | zero => rfl
  | succ n ih => exact (elementsFrom_pad (by decide)).trans ih

/-! ### The bits of a code -/

/-- The bits of a code stand from the top down, zeros below them (R94). -/
theorem getLsbD_codeOfBits {n : Nat} (hn : n ≤ 16) (bits : List Bool) (j : Nat) :
    (codeOfBits n bits).getLsbD j = (decide (j < n) && bits.getD (n - 1 - j) false) := by
  induction n generalizing bits with
  | zero => cases bits <;> simp [codeOfBits]
  | succ n ih =>
    cases bits with
    | nil => simp [codeOfBits]
    | cons b bs =>
      have htop : (if b then BitVec.ofNat 16 (2 ^ n) else 0).getLsbD j = (b && decide (n = j)) := by
        cases b
        · simp
        · rw [if_pos rfl, BitVec.getLsbD_ofNat, Nat.testBit_two_pow, Bool.true_and, Bool.and_eq_right_iff_imp]
          simp only [decide_eq_true_eq]
          omega
      rw [codeOfBits, BitVec.getLsbD_or, htop, ih (by omega)]
      rcases Nat.lt_trichotomy j n with hj | rfl | hj
      · rw [show n + 1 - 1 - j = n - 1 - j + 1 by omega, List.getD_cons_succ]
        simp [hj, hj.ne', Nat.lt_succ_of_lt hj]
      · simp
      · simp [hj.ne, hj.not_gt, Nat.not_lt.mpr (Nat.succ_le_of_lt hj)]

/-- Shifting a code by its first bits leaves the code of the others (R14). -/
theorem shl16_codeOfBits (first bits : List Bool) (h : (first ++ bits).length ≤ 16) :
    shl16 (codeOfBits 16 (first ++ bits)) first.length = codeOfBits 16 bits := by
  rw [List.length_append] at h
  apply BitVec.eq_of_getLsbD_eq
  intro j hj
  rw [shl16, BitVec.getLsbD_shiftLeft, getLsbD_codeOfBits le_rfl, getLsbD_codeOfBits le_rfl]
  by_cases hfirst : j < first.length
  · have hpast : bits.length ≤ 16 - 1 - j := by omega
    simp [hfirst, List.getElem?_eq_none hpast]
  · have hindex : 16 - 1 - (j - first.length) - first.length = 16 - 1 - j := by omega
    rw [List.getD_append_right _ _ _ _ (by omega), hindex]
    simp [hfirst, hj, show j - first.length < 16 by omega]

/-- An element starts at a set bit, a dash where the next two are set too (R96). -/
theorem elementAt_eq : ∀ w : BitVec 3, elementAt w =
    if w.getLsbD 2 && w.getLsbD 1 && w.getLsbD 0 then some .dash else if w.getLsbD 2 then some .dot else none := by
  decide

theorem elementAt_codeOfBits (bits : List Bool) : elementAt (window (codeOfBits 16 bits)) =
    if bits.getD 0 false && bits.getD 1 false && bits.getD 2 false then some .dash
    else if bits.getD 0 false then some .dot else none := by
  simp only [elementAt_eq, window, BitVec.getLsbD_extractLsb', getLsbD_codeOfBits le_rfl]
  rfl

/-! ### One element group -/

theorem elementsFrom_gapBit {n : Nat} {bits : List Bool} (h : bits.length + 1 ≤ 16) :
    elementsFrom (n + 1) (codeOfBits 16 (false :: bits)) = elementsFrom n (codeOfBits 16 bits) := by
  rw [elementsFrom_pad (elementAt_codeOfBits _)]
  exact congrArg _ (shl16_codeOfBits [false] bits h)

/-- The walk takes the first element's group and goes on behind it (R95). -/
theorem elementsFrom_group (e : Elem) {n : Nat} {bits : List Bool} (h : (group e ++ bits).length ≤ 16) :
    elementsFrom (n + (group e).length) (codeOfBits 16 (group e ++ bits)) = e :: elementsFrom n (codeOfBits 16 bits) := by
  cases e with
  | dot =>
    have hshift := shl16_codeOfBits [true] (false :: bits) h
    exact (elementsFrom_dot (elementAt_codeOfBits _)).trans <|
      congrArg _ ((congrArg _ hshift).trans (elementsFrom_gapBit (Nat.le_of_succ_le h)))
  | dash =>
    have hshift := shl16_codeOfBits [true, true, true] (false :: bits) h
    have hrest : bits.length + 1 ≤ 16 := Nat.le_of_add_right_le (k := 3) h
    exact (elementsFrom_dash (elementAt_codeOfBits _)).trans <|
      congrArg _ ((congrArg _ hshift).trans (elementsFrom_gapBit hrest))

/-- With bit positions left for its groups, a pattern is what the walk finds. -/
theorem elementsFrom_contentBits {p : List Elem} {n : Nat} (hp : (contentBits p).length ≤ n) (hn : n ≤ 16) :
    elementsFrom n (codeOfBits 16 (contentBits p)) = p := by
  induction p generalizing n with
  | nil => exact elementsFrom_zero n
  | cons e p ih =>
    have hbits : contentBits (e :: p) = group e ++ contentBits p := rfl
    rw [hbits, List.length_append] at hp
    obtain ⟨m, rfl⟩ : ∃ m, n = m + (group e).length := ⟨n - (group e).length, by omega⟩
    rw [hbits, elementsFrom_group e (by rw [List.length_append]; omega), ih (by omega) (by omega)]

/-- Settles O7: by induction on the pattern, one group at a time. -/
theorem walkingAnEncodedPatternGivesItBack : Obligations.WalkingAnEncodedPatternGivesItBack :=
  fun _ h => elementsFrom_contentBits h le_rfl

/-! ## A bare table word -/

/-- A bare word has a format with bits (R99). -/
theorem encodedOfNat_format {f : Format} {w : Nat} {e : Encoded} (h : encodedOfNat f w = .ok e) : e.format ≠ .op := by
  cases f with
  | op => cases h
  | txw9 | text8 | sc16 | win3 | sym8 =>
    simp only [encodedOfNat] at h
    split at h
    · cases h
      exact Format.noConfusion
    · cases h

theorem tableEncoded_format {nbits w : Nat} {e : Encoded} (h : tableEncoded nbits w = some e) : e.format ≠ .op := by
  unfold tableEncoded at h
  split at h
  · cases h
  · split at h
    · cases h
      exact encodedOfNat_format ‹_›
    · cases h

theorem decodeTableWord_eq_some {nbits w : Nat} {i : Instr} (h : decodeTableWord nbits w = some i) :
    ∃ e, tableEncoded nbits w = some e ∧ decode e = .ok i := by
  unfold decodeTableWord at h
  split at h
  · cases h
  · split at h
    · cases h
      exact ⟨_, ‹_›, ‹_›⟩
    · cases h

/-- The window at the head of the code that placeNext puts in front of the player. -/
theorem window_append (w : BitVec 3) : window (w ++ 0#13) = w := BitVec.extractLsb'_append_eq_left

/-- A text-port word is placed outside a play, so it need not wait (R162). -/
theorem phase_of_placed_word (p : Phase) : ((if p == .play then .idle else p) != Phase.play) = true := by
  cases p with
  | idle | build | play => rfl

/-- What is placed for the next step is what that step fetches. -/
theorem fetch_placeNext (s : State) {e : Encoded} (he : e.format ≠ .op) :
    fetch (placeNext e s) = .ok (e, { placeNext e s with turns := s.turns, bench := [] }) := by
  cases e with
  | op o => exact absurd rfl he
  | sym8 b => exact fetch_of_bench rfl
  | txw9 w =>
    have hgo : mustWait (.word w) (placeNext (.txw9 w) s) = false := congrArg Bool.not (phase_of_placed_word s.phase)
    exact (fetch_of_no_bench rfl).trans (fetchTurn_of_offer rfl hgo)
  | text8 b =>
    have hgo : mustWait (.text b) (placeNext (.text8 b) s) = false := congrArg Bool.not (phase_of_placed_word s.phase)
    exact (fetch_of_no_bench rfl).trans (fetchTurn_of_offer rfl hgo)
  | sc16 c =>
    have hreads : reads (placeNext (.sc16 c) s) c := ⟨Nat.zero_lt_succ 511, memRead_memWrite_same _ _ _⟩
    exact (fetch_of_no_bench rfl).trans (fetchTurn_of_own rfl (ownWork_of_fetch rfl hreads))
  | win3 w =>
    have hwork : ownWork (placeNext (.win3 w) s) = .ok (.win3 w) :=
      (ownWork_of_walk rfl).trans (congrArg (fun v => Except.ok (Encoded.win3 v)) (window_append w))
    exact (fetch_of_no_bench rfl).trans (fetchTurn_of_own rfl hwork)

/-- Settles O57: the table's word is placed by its format, which is never OP. -/
theorem aStoredTableWordIsPerformedNext : Obligations.AStoredTableWordIsPerformedNext := by
  intro s nbits w i h
  obtain ⟨e, he, hd⟩ := decodeTableWord_eq_some h
  have hplace : s.withFetchWord nbits w = placeNext e s := by simp [State.withFetchWord, he]
  rw [hplace]
  exact step_of_fetch (fetch_placeNext s (tableEncoded_format he)) hd

end Sys2Proof.Machine
end

section
/-! PROOFS of the statement of spec/40_signal_code_rom.md: what LOOKUP answers, and that the ROM holds the encoded patterns
(R121, R123 to R149; log entries 4 and 16). -/

namespace Sys2Proof.Machine

/-! ## The ROM -/

/-- The index of a letter is read at that letter's word (R98, R121). -/
theorem romRead_letter (k : Letter) : romRead (BitVec.ofNat 5 k.val) = some (romWord k) := by
  have hindex : (BitVec.ofNat 5 k.val).toNat = k.val := Nat.mod_eq_of_lt (k.isLt.trans (by decide))
  rw [romRead, hindex]
  exact List.getElem?_eq_getElem k.isLt

theorem exec_lookup_letter (k : Letter) (s : State) :
    exec (.lookup (BitVec.ofNat 5 k.val)) s = .next { s with lookupOut := some (romWord k) } := by
  rw [← romRead_letter]
  rfl

/-- Each of the 26 constants is the encoding of its letter's pattern (R124 to R149). -/
theorem romWord_eq_enc : ∀ k : Letter, romWord k = enc (patterns.getD k.val []) := by decide

/-! ## The patterns -/

theorem pattern_ne_nil : ∀ k : Letter, patterns.getD k.val [] ≠ [] := by decide

/-- The longest patterns, those of J, Q and Y, have 14 content bits (R150). -/
theorem contentBits_pattern_length : ∀ k : Letter, (contentBits (patterns.getD k.val [])).length ≤ 16 := by decide

/-- The encoding of a pattern starts with its first element, and every element starts with a set bit (R94). -/
theorem getLsbD_enc_top {p : List Elem} (hp : p ≠ []) : (enc p).getLsbD 15 = true := by
  rw [enc, getLsbD_codeOfBits le_rfl]
  cases p with
  | nil => exact absurd rfl hp
  | cons e p =>
    cases e with
    | dot | dash => rfl

/-- Settles O8: each ROM word is an encoded pattern, not empty and short enough to be walked back. -/
theorem lookupAnswersTheEncodedPattern : Obligations.LookupAnswersTheEncodedPattern := by
  intro k s
  refine ⟨?_, romWord_eq_enc k, ?_, ?_⟩
  · rw [← romWord_eq_enc]
    exact exec_lookup_letter k s
  · rw [romWord_eq_enc]
    exact getLsbD_enc_top (pattern_ne_nil k)
  · rw [romWord_eq_enc]
    exact walkingAnEncodedPatternGivesItBack _ (contentBits_pattern_length k)

end Sys2Proof.Machine
end

section
/-! PROOFS of the statements of spec/41_encoder.md: what each text-port word does (R162 to R169), the sequence that the
words of a text build (R170, R171), and that a write starts afresh (R173). -/

namespace Sys2Proof.Machine

/-! ## Text-port transactions -/

theorem exec_byteWord (d : Byte) (s : State) :
    exec (.byteWord d) s = .next (textTransaction (byteOp (classify d)) s) := rfl

theorem exec_endWord (d : Byte) (s : State) : exec (.endWord d) s = .next (textTransaction endOp s) := rfl

theorem exec_space (s : State) : exec .space s = .next (textTransaction spaceOp s) := rfl

theorem exec_ignore (b : Byte) (s : State) : exec (.ignore b) s = .next (textTransaction ignoreOp s) := rfl

/-- A text-port instruction is the transaction of one operation, the same in every state (R41). -/
theorem exec_of_isTextPort {i : Instr} (hi : isTextPort i) :
    ∃ op : State → State, ∀ s, exec i s = .next (textTransaction op s) := by
  rcases hi with ⟨d, rfl⟩ | ⟨d, rfl⟩ | ⟨k, rfl | rfl⟩ | rfl | ⟨b, rfl⟩
  · exact ⟨_, exec_byteWord d⟩
  · exact ⟨_, exec_endWord d⟩
  · exact ⟨_, exec_upper k⟩
  · exact ⟨_, exec_lower k⟩
  · exact ⟨_, exec_space⟩
  · exact ⟨_, exec_ignore b⟩

/-- Settles O13: class by class, the decoded row performs the operation that BYTE dispatches to. -/
theorem byteWordIsADispatch : Obligations.ByteWordIsADispatch := by
  intro d s
  rw [exec_byteWord]
  rcases decodeText8_cases d with ⟨k, hd, hrow⟩ | ⟨k, hd, hrow⟩ | ⟨hd, hrow⟩ | ⟨hd, hrow⟩
  · rw [hrow, exec_upper, classify_letter_iff.mpr (.inl hd)]; rfl
  · rw [hrow, exec_lower, classify_letter_iff.mpr (.inr hd)]; rfl
  · rw [hrow, exec_space, classify_space_iff.mpr hd]; rfl
  · rw [hrow, exec_ignore, hd]; rfl

/-! ### The first word of a write -/

section
variable {s : State}

theorem writeBegun_of_idle (h : s.phase = .idle) : writeBegun s = beginWrite s := if_pos h

theorem writeBegun_of_build (h : s.phase = .build) : writeBegun s = s := if_neg (by simp [h])

theorem writeBegun_seqLen_le (h : s.seqLen.toNat ≤ 512) : (writeBegun s).seqLen.toNat ≤ 512 := by
  unfold writeBegun
  split
  · exact Nat.zero_le 512
  · exact h

/-- WRITE_START overwrites the registers in which an idle builder's leftovers stand (R163, R173). -/
theorem beginWrite_eq_of_withoutBuilder {s' : State} (h : withoutBuilder s = withoutBuilder s') :
    beginWrite s = beginWrite s' :=
  congrArg (fun u : State => { u with phase := .build }) h

end

/-- Settles O9: the transaction of an idle block begins the write and goes on as in phase BUILD. -/
theorem firstWordBeginsTheWrite : Obligations.FirstWordBeginsTheWrite := by
  intro s hs b
  refine ⟨whenEnabled_of (by simp [hs]), fun i hi => ?_⟩
  obtain ⟨op, hop⟩ := exec_of_isTextPort hi
  have hb : b.phase = .build := rfl
  rw [hop, hop, textTransaction_idle hs, textTransaction_build hb]
  rfl

/-- Settles O22: the transaction's operation works on the state that WRITE_START leaves. -/
theorem writesAreIndependent : Obligations.WritesAreIndependent := by
  intro i s s' hi hs h
  have hs' : s'.phase = .idle := (congrArg State.phase h).symm.trans hs
  obtain ⟨op, hop⟩ := exec_of_isTextPort hi
  rw [hop, hop, textTransaction_idle hs, textTransaction_idle hs', beginWrite_eq_of_withoutBuilder h]

/-! ### The operations of the builder -/

section
variable {s : State}

theorem letterOp_of_full (k : Letter) (h : s.seqLen.toNat = 512) : letterOp k s = { s with seqOvf := true } := by
  rcases letterOp_cases k s with ⟨_, heq⟩ | ⟨hroom, _⟩
  · exact heq
  · omega

theorem letterOp_of_room (k : Letter) (h : s.seqLen.toNat < 512) : letterOp k s =
    { s with
      seqMem := memWrite s.seqMem s.seqLen.toNat (romWord k)
      seqLen := s.seqLen + 1
      pendingSpace := false
      boundary := s.seqLen + 1 } := by
  rcases letterOp_cases k s with ⟨hfull, _⟩ | ⟨_, heq⟩
  · omega
  · exact heq

theorem spaceOp_of_pending (h : s.pendingSpace = true) : spaceOp s = s := if_pos h

theorem spaceOp_of_full (hp : s.pendingSpace = false) (h : s.seqLen.toNat = 512) :
    spaceOp s = { s with seqOvf := true } := by
  rcases spaceOp_cases s with ⟨hp', _⟩ | ⟨_, _, heq⟩ | ⟨_, hroom, _⟩
  · rw [hp] at hp'; cases hp'
  · exact heq
  · omega

theorem spaceOp_of_room (hp : s.pendingSpace = false) (h : s.seqLen.toNat < 512) : spaceOp s =
    { s with
      seqMem := memWrite s.seqMem s.seqLen.toNat gapCode
      seqLen := s.seqLen + 1
      pendingSpace := true } := by
  rcases spaceOp_cases s with ⟨hp', _⟩ | ⟨_, hfull, _⟩ | ⟨_, _, heq⟩
  · rw [hp] at hp'; cases hp'
  · omega
  · exact heq

end

/-- Settles O10: each form is the transaction of LETTER, which asks for room first. -/
theorem letterAppendsItsCode : Obligations.LetterAppendsItsCode := by
  intro k i s hp hle hi b
  have hexec : exec i s = .next (textTransaction (letterOp k) s) := by
    rcases hi with rfl | rfl | ⟨c, rfl, hc⟩
    · exact exec_upper k s
    · exact exec_lower k s
    · have hclass := classify_letter_iff.mpr (hc.imp eq_upperByte_iff.mpr eq_lowerByte_iff.mpr)
      rw [exec_byteWord, hclass]; rfl
  have hb : b.seqLen.toNat ≤ 512 := writeBegun_seqLen_le hle
  rw [hexec, textTransaction_eq hp]
  split
  · rename_i hfull; rw [letterOp_of_full k hfull]
  · rename_i hroom; rw [letterOp_of_room k (Nat.lt_of_le_of_ne hb hroom)]

/-- Settles O11: both forms are the transaction of SPACE, which asks for the pending space first and then for room. -/
theorem spaceAppendsOneGapAfterALetter : Obligations.SpaceAppendsOneGapAfterALetter := by
  intro i s hp hle hi b
  have hexec : exec i s = .next (textTransaction spaceOp s) := by
    rcases hi with rfl | rfl
    · exact exec_space s
    · rw [exec_byteWord, classify_space_iff.mpr rfl]; rfl
  have hb : b.seqLen.toNat ≤ 512 := writeBegun_seqLen_le hle
  rw [hexec, textTransaction_eq hp]
  split
  · rename_i hpend; rw [spaceOp_of_pending hpend]
  · rename_i hpend
    have hpend' : b.pendingSpace = false := Bool.eq_false_iff.mpr hpend
    split
    · rename_i hfull; rw [spaceOp_of_full hpend' hfull]
    · rename_i hroom; rw [spaceOp_of_room hpend' (Nat.lt_of_le_of_ne hb hroom)]; rfl

/-- Settles O12: the operation of the transaction leaves the state as it is. -/
theorem ignoredBytesChangeNothing : Obligations.IgnoredBytesChangeNothing := by
  intro c i s hp hc hi
  have hexec : exec i s = .next (textTransaction ignoreOp s) := by
    rcases hi with rfl | rfl
    · exact exec_ignore c s
    · rw [exec_byteWord, hc]; rfl
  rw [hexec, textTransaction_eq hp, ignoreOp_eq]

/-- Settles O14: the two ways of END, by whether a letter was appended. -/
theorem endTruncatesAndStartsThePlay : Obligations.EndTruncatesAndStartsThePlay := by
  intro d s hp b
  rw [exec_endWord, textTransaction_eq hp]
  rcases endOp_cases b with ⟨hb, heq⟩ | ⟨hb, heq⟩
  · rw [if_pos hb, heq]; rfl
  · rw [if_neg hb, heq]

/-! ### A text-port word during a play -/

section
variable {s t : State}

@[simp] theorem writeBegun_turns : (writeBegun s).turns = s.turns := by unfold writeBegun; split <;> rfl

@[simp] theorem writeBegun_bench : (writeBegun s).bench = s.bench := by unfold writeBegun; split <;> rfl

/-- No instruction touches the schedule: only the fetch takes entries from it (log entry 3). -/
theorem exec_turns {i : Instr} (h : exec i s = .next t) : t.turns = s.turns := by
  cases exec_moves i h with
  | stay | overflow | drained | lookup | reset => rfl
  | begin | letter | space | ignore | finish => simp
  | play | gap | code | dash | dot | pad | walkEnd | tick | onExpiry | offExpiry | wgapExpiry | lgapExpiry
  | nextLetter | nextGap | nextLast => simp
  | append | drop | pop => simp

/-- A step at which the offer that is first must wait takes nothing from the schedule. -/
theorem step_turns_of_mustWait {o : Offer} {rest : List Turn} (hb : s.bench = []) (ht : s.turns = .offer o :: rest)
    (hwait : mustWait o s = true) (h : step s = .next t) : t.turns = s.turns := by
  obtain ⟨e, u, i, hf, _, hexec⟩ := step_next h
  rw [fetch_of_no_bench hb, fetchTurn, ht] at hf
  simp only [hwait, if_true] at hf
  rw [exec_turns hexec, (map_pair_ok hf).2]

end

/-- Settles O17: the transaction asks for the phase first, and the step leaves a word that must wait where it stands. -/
theorem textPortWaitsDuringThePlay : Obligations.TextPortWaitsDuringThePlay := by
  refine ⟨fun i s hi hp => ?_, fun s t o rest hp hb ho ht hstep => ?_⟩
  · obtain ⟨op, hop⟩ := exec_of_isTextPort hi
    rw [hop, textTransaction_play hp]
  · have hwait : mustWait o s = true := by
      rcases ho with ⟨w, rfl⟩ | ⟨b, rfl⟩
      all_goals simp [mustWait, txReady, hp]
    exact step_turns_of_mustWait hb ht hwait hstep

/-! ## The builder as one function -/

/-! ### One byte -/

section
variable {a : Built} {b : Byte} {k : Letter}

theorem buildByte_letter_of_room (hb : classify b = .letter k) (h : a.seq.length < 512) :
    buildByte a b = ⟨a.seq ++ [romWord k], false, a.seq.length + 1, a.ovf⟩ := by
  simp [buildByte, hb, h]

theorem buildByte_letter_of_full (hb : classify b = .letter k) (h : 512 ≤ a.seq.length) :
    buildByte a b = { a with ovf := true } := by
  simp [buildByte, hb, Nat.not_lt.mpr h]

theorem buildByte_space_of_pending (hb : classify b = .space) (hp : a.ps = true) : buildByte a b = a := by
  simp [buildByte, hb, hp]

theorem buildByte_space_of_room (hb : classify b = .space) (hp : a.ps = false) (h : a.seq.length < 512) :
    buildByte a b = ⟨a.seq ++ [gapCode], true, a.bd, a.ovf⟩ := by
  simp [buildByte, hb, hp, h]

theorem buildByte_space_of_full (hb : classify b = .space) (hp : a.ps = false) (h : 512 ≤ a.seq.length) :
    buildByte a b = { a with ovf := true } := by
  simp [buildByte, hb, hp, Nat.not_lt.mpr h]

theorem buildByte_other (hb : classify b = .other) : buildByte a b = a := by
  simp [buildByte, hb]

/-- What a byte does to the sequence, once: nothing to its codes, a letter appended, or a gap appended after a letter
(R164 to R167, R170). -/
theorem buildByte_cases (a : Built) (b : Byte) :
    (buildByte a b = a) ∨ (512 ≤ a.seq.length ∧ buildByte a b = { a with ovf := true }) ∨
      (a.seq.length < 512 ∧ ∃ k, buildByte a b = ⟨a.seq ++ [romWord k], false, a.seq.length + 1, a.ovf⟩) ∨
      (a.seq.length < 512 ∧ a.ps = false ∧ buildByte a b = ⟨a.seq ++ [gapCode], true, a.bd, a.ovf⟩) := by
  cases hb : classify b with
  | letter k =>
    rcases Nat.lt_or_ge a.seq.length 512 with h | h
    · exact .inr (.inr (.inl ⟨h, k, buildByte_letter_of_room hb h⟩))
    · exact .inr (.inl ⟨h, buildByte_letter_of_full hb h⟩)
  | space =>
    rcases Bool.eq_false_or_eq_true a.ps with hp | hp
    · exact .inl (buildByte_space_of_pending hb hp)
    · rcases Nat.lt_or_ge a.seq.length 512 with h | h
      · exact .inr (.inr (.inr ⟨h, hp, buildByte_space_of_room hb hp h⟩))
      · exact .inr (.inl ⟨h, buildByte_space_of_full hb hp h⟩)
  | other => exact .inl (buildByte_other hb)

end

theorem buildText_append (o : Bool) (text more : List Byte) :
    buildText o (text ++ more) = more.foldl buildByte (buildText o text) := List.foldl_append

theorem buildText_concat (o : Bool) (text : List Byte) (b : Byte) :
    buildText o (text ++ [b]) = buildByte (buildText o text) b := buildText_append o text [b]

/-- An invariant of the builder holds of what any text builds. -/
theorem buildText_induction {o : Bool} {P : List Byte → Built → Prop} (start : P [] (Built.start o))
    (byte : ∀ text a b, P text a → P (text ++ [b]) (buildByte a b)) (text : List Byte) :
    P text (buildText o text) := by
  induction text using List.reverseRecOn with
  | nil => exact start
  | append_singleton text b ih => exact buildText_concat o text b ▸ byte text _ b ih

/-! ### The sticky flag -/

theorem buildByte_ovf (a : Built) (o : Bool) (b : Byte) :
    ∃ o', buildByte { a with ovf := o } b = { buildByte a b with ovf := o' } := by
  unfold buildByte
  cases classify b with
  | letter k => by_cases h : a.seq.length < 512 <;> simp [h]
  | space => by_cases hp : a.ps = true <;> by_cases h : a.seq.length < 512 <;> simp [hp, h]
  | other => exact ⟨o, rfl⟩

/-- The overflow flag that a write finds has no effect on the codes it builds (R26). -/
theorem foldl_buildByte_ovf (text : List Byte) (a : Built) (o : Bool) :
    ∃ o', text.foldl buildByte { a with ovf := o } = { text.foldl buildByte a with ovf := o' } := by
  induction text generalizing a o with
  | nil => exact ⟨o, rfl⟩
  | cons b text ih =>
    obtain ⟨o', hbyte⟩ := buildByte_ovf a o b
    rw [List.foldl_cons, hbyte]
    exact ih (buildByte a b) o'

/-- The sequence that END leaves (R168). -/
def Built.cut (a : Built) : List Code := a.seq.take a.bd

theorem build_eq_cut (o : Bool) (text : List Byte) : build text = (buildText o text).cut := by
  obtain ⟨o', h⟩ : ∃ o', buildText o text = { buildText false text with ovf := o' } :=
    foldl_buildByte_ovf text (Built.start false) o
  rw [h]
  rfl

/-- Each byte appends at most one code, so a text that fits in the sequence does not overflow it (R167). -/
theorem ovf_of_length_le (text : List Byte) :
    (buildText false text).seq.length ≤ text.length ∧ (text.length ≤ 512 → (buildText false text).ovf = false) := by
  induction text using buildText_induction with
  | start => exact ⟨le_rfl, fun _ => rfl⟩
  | byte text a b ih =>
    obtain ⟨hlen, hovf⟩ := ih
    rw [List.length_append, List.length_singleton]
    rcases buildByte_cases a b with heq | ⟨hfull, heq⟩ | ⟨_, k, heq⟩ | ⟨_, _, heq⟩
    · rw [heq]; exact ⟨by omega, fun h => hovf (by omega)⟩
    · rw [heq]; exact ⟨by simp only; omega, fun h => by omega⟩
    · rw [heq]; exact ⟨by simpa using hlen, fun h => hovf (by omega)⟩
    · rw [heq]; exact ⟨by simpa using hlen, fun h => hovf (by omega)⟩

/-! ### What is always true of a built sequence -/

/-- What R171 says of the codes, for the builder after any bytes; a pending space is owed after a letter only. -/
structure WellBuilt (a : Built) : Prop where
  fits : a.seq.length ≤ 512
  bd_le : a.bd ≤ a.seq.length
  ends : a.cut.getLast? ≠ some gapCode
  pending : a.ps = false → ∃ c, a.seq.getLast? = some c ∧ c ≠ gapCode
  first : a.seq.head? ≠ some gapCode
  apart : a.seq.IsChain fun x y => ¬ (x = gapCode ∧ y = gapCode)

section
variable {a : Built}

theorem wellBuilt_start (o : Bool) : WellBuilt (Built.start o) where
  fits := Nat.zero_le 512
  bd_le := le_rfl
  ends := by simp [Built.cut, Built.start]
  pending := fun h => by cases h
  first := by simp [Built.start]
  apart := .nil

/-- A letter is the new end of the sequence (R164). -/
theorem WellBuilt.append_letter (h : WellBuilt a) (k : Letter) (hroom : a.seq.length < 512) :
    WellBuilt ⟨a.seq ++ [romWord k], false, a.seq.length + 1, a.ovf⟩ where
  fits := by simpa using hroom
  bd_le := by simp
  ends := by simp [Built.cut, List.take_of_length_le, romWord_ne_gap]
  pending := fun _ => ⟨romWord k, by simp, romWord_ne_gap k⟩
  first := by
    cases hs : a.seq with
    | nil => simp [romWord_ne_gap]
    | cons c cs => simpa [hs] using h.first
  apart := List.isChain_append.mpr ⟨h.apart, .singleton _, by simp [romWord_ne_gap]⟩

/-- A gap stands between letters, behind the boundary until the next one (R165). -/
theorem WellBuilt.append_gap (h : WellBuilt a) (hp : a.ps = false) (hroom : a.seq.length < 512) :
    WellBuilt ⟨a.seq ++ [gapCode], true, a.bd, a.ovf⟩ := by
  obtain ⟨c, hlast, hc⟩ := h.pending hp
  exact
    { fits := by simpa using hroom
      bd_le := by simpa using Nat.le_succ_of_le h.bd_le
      ends := by simpa only [Built.cut, List.take_append_of_le_length h.bd_le] using h.ends
      pending := fun hp => by cases hp
      first := by
        cases hs : a.seq with
        | nil => simp [hs] at hlast
        | cons d ds => simpa [hs] using h.first
      apart := List.isChain_append.mpr ⟨h.apart, .singleton _, by simp [hlast, hc]⟩ }

theorem WellBuilt.buildByte (h : WellBuilt a) (b : Byte) : WellBuilt (buildByte a b) := by
  rcases buildByte_cases a b with heq | ⟨_, heq⟩ | ⟨hroom, k, heq⟩ | ⟨hroom, hp, heq⟩
  · rwa [heq]
  · rw [heq]; exact ⟨h.fits, h.bd_le, h.ends, h.pending, h.first, h.apart⟩
  · rw [heq]; exact h.append_letter k hroom
  · rw [heq]; exact h.append_gap hp hroom

end

theorem wellBuilt_buildText (o : Bool) (text : List Byte) : WellBuilt (buildText o text) :=
  buildText_induction (P := fun _ => WellBuilt) (wellBuilt_start o) (fun _ _ b h => h.buildByte b) text

/-- Settles O20: the builder's codes have no stray gaps, and the cut at the boundary ends in a letter. -/
theorem builtSequencesHaveNoStrayGaps : Obligations.BuiltSequencesHaveNoStrayGaps := by
  intro text
  have h := wellBuilt_buildText false text
  refine ⟨h.ends, fun hhead => h.first ?_, fun k => ?_,
    (List.length_take_le' _ _).trans (ovf_of_length_le text).1⟩
  · rw [build, List.head?_take] at hhead
    exact (ite_eq_iff.mp hhead).elim (fun hnone => by simp at hnone) And.right
  · rintro ⟨hk, hk'⟩
    obtain ⟨_, hk⟩ := List.getElem?_eq_some_iff.mp hk
    obtain ⟨hlt, hk'⟩ := List.getElem?_eq_some_iff.mp hk'
    exact List.isChain_iff_getElem.mp (h.apart.take _) k hlt ⟨hk, hk'⟩

/-- Settles O16: a text that fits does not overflow, and in a full sequence each row that would append records the
overflow. -/
theorem fullSequenceDropsTheCode : Obligations.FullSequenceDropsTheCode := by
  refine ⟨fun text => (ovf_of_length_le text).2, fun i s hb hfull hi => ?_⟩
  rcases hi with rfl | ⟨k, rfl | rfl⟩ | ⟨rfl, hp⟩
  · exact whenEnabled_of (by simp [hb, seqFull_iff.mpr hfull.ge])
  · rw [exec_upper, textTransaction_build hb, letterOp_of_full k hfull]
  · rw [exec_lower, textTransaction_build hb, letterOp_of_full k hfull]
  · rw [exec_space, textTransaction_build hb, spaceOp_of_full hp hfull]

/-! ### Spaces -/

section
variable (a : Built)

/-- A second space finds the pending space, or the full sequence, that the first one left. -/
theorem buildByte_space_twice : buildByte (buildByte a 0x20) 0x20 = buildByte a 0x20 := by
  have hb : classify 0x20 = .space := classify_space_iff.mpr rfl
  rcases Bool.eq_false_or_eq_true a.ps with hp | hp
  · rw [buildByte_space_of_pending hb hp, buildByte_space_of_pending hb hp]
  · rcases Nat.lt_or_ge a.seq.length 512 with h | h
    · rw [buildByte_space_of_room hb hp h, buildByte_space_of_pending hb rfl]
    · rw [buildByte_space_of_full hb hp h]
      exact buildByte_space_of_full (a := { a with ovf := true }) hb hp h

/-- A run of spaces is one space. -/
theorem foldl_buildByte_spaces (n : Nat) :
    (List.replicate (n + 1) 0x20).foldl buildByte a = buildByte a 0x20 := by
  induction n with
  | zero => rfl
  | succ n ih => rw [List.replicate_succ', List.foldl_concat, ih, buildByte_space_twice]

variable {a}

theorem WellBuilt.cut_space (h : WellBuilt a) : (Machine.buildByte a 0x20).cut = a.cut := by
  have hb : classify 0x20 = .space := classify_space_iff.mpr rfl
  rcases Bool.eq_false_or_eq_true a.ps with hp | hp
  · rw [buildByte_space_of_pending hb hp]
  · rcases Nat.lt_or_ge a.seq.length 512 with hroom | hfull
    · rw [buildByte_space_of_room hb hp hroom]
      exact List.take_append_of_le_length h.bd_le
    · rw [buildByte_space_of_full hb hp hfull]
      rfl

end

/-- Spaces before the first letter do nothing. -/
theorem buildText_leading_spaces (o : Bool) (m : Nat) (text : List Byte) :
    buildText o (List.replicate m 0x20 ++ text) = buildText o text := by
  have hstart : buildText o (List.replicate m 0x20) = Built.start o := by
    cases m with
    | zero => rfl
    | succ m => exact foldl_buildByte_spaces (Built.start o) m
  rw [buildText_append, hstart]
  rfl

/-- Spaces after the last letter lie behind the boundary. -/
theorem build_trailing_spaces (n : Nat) (text : List Byte) : build (text ++ List.replicate n 0x20) = build text := by
  cases n with
  | zero => rw [List.replicate_zero, List.append_nil]
  | succ n =>
    rw [build_eq_cut false, build_eq_cut false, buildText_append, foldl_buildByte_spaces,
      (wellBuilt_buildText false text).cut_space]

/-- Settles O21: the outer spaces leave the cut as it is, and a run does what its first space does. -/
theorem spacesAreAbsorbedAndCollapsed : Obligations.SpacesAreAbsorbedAndCollapsed := by
  refine ⟨fun m n text => ?_, fun n text more => ?_⟩
  · rw [build_trailing_spaces, build_eq_cut false, buildText_leading_spaces, ← build_eq_cut]
  · have hrun : buildText false (text ++ List.replicate (n + 1) 0x20) = buildText false (text ++ [0x20]) := by
      rw [buildText_append, foldl_buildByte_spaces, buildText_concat]
    rw [build_eq_cut false, build_eq_cut false, buildText_append, buildText_append _ (text ++ [0x20]), hrun]

/-! ## The machine builds the function's sequence -/

/-- The builder's registers and entries hold what `a` holds. -/
structure Builds (s : State) (a : Built) : Prop where
  phase : s.phase = .build
  seqLen : s.seqLen.toNat = a.seq.length
  boundary : s.boundary.toNat = a.bd
  pendingSpace : s.pendingSpace = a.ps
  seqOvf : s.seqOvf = a.ovf
  codes : ∀ k, k < a.seq.length → memRead s.seqMem k = a.seq[k]?

section
variable {s t : State} {a : Built}

theorem builds_beginWrite (s : State) : Builds (beginWrite s) (Built.start s.seqOvf) :=
  ⟨rfl, rfl, rfl, rfl, rfl, fun k hk => absurd hk (Nat.not_lt_zero k)⟩

theorem Builds.overflow (h : Builds s a) : Builds { s with seqOvf := true } { a with ovf := true } :=
  ⟨h.phase, h.seqLen, h.boundary, h.pendingSpace, rfl, h.codes⟩

/-- The word stored at `seq_len` is the code appended. -/
theorem Builds.codes_append (h : Builds s a) (c : Code) {k : Nat} (hk : k < (a.seq ++ [c]).length) :
    memRead (memWrite s.seqMem s.seqLen.toNat c) k = (a.seq ++ [c])[k]? := by
  rw [memRead_memWrite, h.seqLen]
  split
  · rename_i hend; rw [hend, List.getElem?_concat_length]
  · rename_i hne
    have hlt : k < a.seq.length := by simp at hk; omega
    rw [h.codes k hlt, List.getElem?_append_left hlt]

theorem Builds.append_letter (h : Builds s a) (k : Letter) (hroom : a.seq.length < 512) :
    Builds (letterOp k s) ⟨a.seq ++ [romWord k], false, a.seq.length + 1, a.ovf⟩ := by
  have hroom' : s.seqLen.toNat < 512 := h.seqLen ▸ hroom
  have hlen : (s.seqLen + 1).toNat = a.seq.length + 1 := by rw [toNat_succ_of_lt hroom', h.seqLen]
  rw [letterOp_of_room k hroom']
  exact ⟨h.phase, by simpa using hlen, hlen, rfl, h.seqOvf, fun _ => h.codes_append _⟩

theorem Builds.append_gap (h : Builds s a) (hp : a.ps = false) (hroom : a.seq.length < 512) :
    Builds (spaceOp s) ⟨a.seq ++ [gapCode], true, a.bd, a.ovf⟩ := by
  have hroom' : s.seqLen.toNat < 512 := h.seqLen ▸ hroom
  have hlen : (s.seqLen + 1).toNat = a.seq.length + 1 := by rw [toNat_succ_of_lt hroom', h.seqLen]
  rw [spaceOp_of_room (h.pendingSpace.trans hp) hroom']
  exact ⟨h.phase, by simpa using hlen, h.boundary, rfl, h.seqOvf, fun _ => h.codes_append _⟩

/-- The machine's operation of a byte's class follows the function (R169, R170). -/
theorem Builds.byteOp (h : Builds s a) (hfits : a.seq.length ≤ 512) (b : Byte) :
    Builds (byteOp (classify b) s) (buildByte a b) := by
  have hfull (hle : 512 ≤ a.seq.length) : s.seqLen.toNat = 512 := by rw [h.seqLen]; omega
  cases hb : classify b with
  | letter k =>
    rcases Nat.lt_or_ge a.seq.length 512 with hlen | hlen
    · rw [buildByte_letter_of_room hb hlen]
      exact h.append_letter k hlen
    · rw [buildByte_letter_of_full hb hlen, Machine.byteOp, letterOp_of_full k (hfull hlen)]
      exact h.overflow
  | space =>
    rcases Bool.eq_false_or_eq_true a.ps with hp | hp
    · rw [buildByte_space_of_pending hb hp, Machine.byteOp, spaceOp_of_pending (h.pendingSpace.trans hp)]
      exact h
    · rcases Nat.lt_or_ge a.seq.length 512 with hlen | hlen
      · rw [buildByte_space_of_room hb hp hlen]
        exact h.append_gap hp hlen
      · rw [buildByte_space_of_full hb hp hlen, Machine.byteOp, spaceOp_of_full (h.pendingSpace.trans hp) (hfull hlen)]
        exact h.overflow
  | other =>
    rw [buildByte_other hb]
    exact h

end

/-- In phase BUILD the BYTE words of a text go on from what is built. -/
theorem Builds.execAll_byteWords (text : List Byte) {s : State} {a : Built} (h : Builds s a) (ha : WellBuilt a) :
    ∃ t, execAll (text.map .byteWord) s = .next t ∧ Builds t (text.foldl buildByte a) := by
  induction text generalizing s a with
  | nil => exact ⟨s, rfl, h⟩
  | cons b text ih =>
    obtain ⟨t, hexec, ht⟩ := ih (h.byteOp ha.fits b) (ha.buildByte b)
    refine ⟨t, ?_, ht⟩
    rw [List.map_cons, execAll, exec_byteWord, textTransaction_build h.phase]
    exact hexec

/-- Settles O19: WRITE_START builds the empty sequence, and each BYTE word does what the function does with its byte. -/
theorem byteWordsBuildTheSequence : Obligations.ByteWordsBuildTheSequence := by
  intro text s hs
  obtain ⟨t, hexec, ht⟩ := (builds_beginWrite s).execAll_byteWords text (wellBuilt_start s.seqOvf)
  have hstart : exec .writeStart s = .next (beginWrite s) := whenEnabled_of (by simp [hs])
  refine ⟨t, ?_, ht.phase, ht.seqLen, ht.boundary, ht.pendingSpace, ht.seqOvf, ht.codes,
    (wellBuilt_buildText _ text).bd_le, build_eq_cut s.seqOvf text⟩
  rw [execAll, hstart]
  exact hexec

end Sys2Proof.Machine
end

section
/-! PROOFS about the player under any schedule (spec/42_player.md section 3, R217; spec/60_exceptions.md R282): what the
player sees of a state, that the other agents' steps do not change it, and the trace of a sequence from its first fetch
on. -/

namespace Sys2Proof.Machine

/-! ## Runs -/

/-- Some number of steps leads from `s` to `t`. -/
def Reaches (s t : State) : Prop := ∃ n, run n s = .next t

section
variable {s t u : State}

theorem run_succ_of_step (h : step s = .next t) (n : Nat) : run (n + 1) s = run n t := by
  have hcore : Sys2Proof.core.step s = .next t := h
  simp only [run, Host.Core.run, hcore]
  rfl

theorem run_succ_next {n : Nat} (h : run (n + 1) s = .next u) : ∃ t, step s = .next t ∧ run n t = .next u := by
  cases hs : step s with
  | next t => exact ⟨t, rfl, run_succ_of_step hs n ▸ h⟩
  | fault f =>
    have hcore : Sys2Proof.core.step s = .fault f := hs
    simp [run, Host.Core.run, hcore] at h
  | refused r =>
    have hcore : Sys2Proof.core.step s = .refused r := hs
    simp [run, Host.Core.run, hcore] at h

theorem Reaches.refl (s : State) : Reaches s s := ⟨0, rfl⟩

theorem Reaches.head (h : step s = .next t) (htu : Reaches t u) : Reaches s u := by
  obtain ⟨n, hn⟩ := htu
  exact ⟨n + 1, (run_succ_of_step h n).trans hn⟩

/-- What every step keeps holds of every state reached. -/
theorem Reaches.induction {P : State → Prop} (hstep : ∀ s t, P s → step s = .next t → P t) (hs : P s)
    (h : Reaches s t) : P t := by
  obtain ⟨n, hn⟩ := h
  induction n generalizing s with
  | zero => cases hn; exact hs
  | succ n ih =>
    obtain ⟨s', hs', hn'⟩ := run_succ_next hn
    exact ih (hstep s s' hs hs') hn'

theorem Reaches.trans (hst : Reaches s t) (htu : Reaches t u) : Reaches s u := by
  obtain ⟨n, hn⟩ := hst
  induction n generalizing s with
  | zero => cases hn; exact htu
  | succ n ih =>
    obtain ⟨s', hs', hn'⟩ := run_succ_next hn
    exact .head hs' (ih hn')

end

/-! ## What the other agents leave alone -/

/-- The part of a state that the player reads and writes: without the transcript FIFO, the reader and the schedule. -/
def playerView (s : State) : State := { withoutFifo s with turns := [], bench := [], drainLeft := 0 }

/-- The block by itself, with a sound FIFO, so that the reader's pops read what was appended. -/
structure Sound (s : State) : Prop where
  fifo : FifoOk s
  bench : s.bench = []
  noReset : Turn.offer .reset ∉ s.turns

section
variable {s t : State}

@[simp] theorem writeBegun_wrPtr : (writeBegun s).wrPtr = s.wrPtr := by unfold writeBegun; split <;> rfl

@[simp] theorem writeBegun_rdPtr : (writeBegun s).rdPtr = s.rdPtr := by unfold writeBegun; split <;> rfl

@[simp] theorem writeBegun_count : (writeBegun s).count = s.count := by unfold writeBegun; split <;> rfl

theorem fifoOk_startElement (h : FifoOk s) (e : Elem) (sym : Symbol) (k : BitVec 2) : FifoOk (startElement e sym k s) := by
  have hon : FifoOk (emitOn s) := h.congr rfl rfl rfl rfl
  refine (fifoOk_emitAppend hon sym).congr ?_ ?_ ?_ ?_
  all_goals simp only [startElement, hold_fifoMem, hold_wrPtr, hold_rdPtr, hold_count]

theorem fifoOk_fetchGapOp (h : FifoOk s) : FifoOk (fetchGapOp s) := by
  have hgap : FifoOk { s with curGap := true } := h.congr rfl rfl rfl rfl
  refine (fifoOk_emitAppend hgap .space).congr ?_ ?_ ?_ ?_
  all_goals simp only [fetchGapOp, hold_fifoMem, hold_wrPtr, hold_rdPtr, hold_count]

theorem fifoOk_nextLastOp (h : FifoOk s) : FifoOk (nextLastOp s) := by
  refine (fifoOk_emitAppend h .newline).congr ?_ ?_ ?_ ?_
  all_goals simp only [nextLastOp, emit_fifoMem, emit_wrPtr, emit_rdPtr, emit_count]

/-- Every instruction keeps the FIFO sound (R50 item 6). -/
theorem exec_keeps_fifoOk {i : Instr} (h : FifoOk s) (he : exec i s = .next t) : FifoOk t := by
  cases exec_moves i he with
  | stay => exact h
  | begin | overflow | play | drained | lookup => exact h.congr rfl rfl rfl rfl
  | letter | space | ignore | finish => exact h.congr (by simp) (by simp) (by simp) (by simp)
  | code | pad | walkEnd | tick | onExpiry | offExpiry | wgapExpiry | lgapExpiry | nextGap =>
    exact h.congr (by simp) (by simp) (by simp) (by simp)
  | gap => exact fifoOk_fetchGapOp h
  | dash | dot => exact fifoOk_startElement h _ _ _
  | nextLetter => exact (fifoOk_emitAppend h .space).congr rfl rfl rfl rfl
  | nextLast => exact fifoOk_nextLastOp h
  | append | drop => exact fifoOk_emitAppend h _
  | pop _ b _ _ hne => exact (fifoOk_fifoTake h b (by bv_omega)).congr rfl rfl rfl rfl
  | reset => exact invariantsHoldAtReset.fifo.congr rfl rfl rfl rfl

/-- No instruction touches the bench (log entry 20). -/
theorem exec_bench {i : Instr} (h : exec i s = .next t) : t.bench = s.bench := by
  cases exec_moves i h with
  | stay | overflow | drained | lookup | reset => rfl
  | begin | letter | space | ignore | finish => simp
  | play | gap | code | dash | dot | pad | walkEnd | tick | onExpiry | offExpiry | wgapExpiry | lgapExpiry
  | nextLetter | nextGap | nextLast => simp
  | append | drop | pop => simp

/-- The agents' fetch takes at most the first entry of the schedule and changes nothing else. -/
theorem fetchTurn_frame {e : Encoded} (h : fetchTurn s = .ok (e, t)) :
    ∃ rest, rest <:+ s.turns ∧ t = { s with turns := rest } := by
  have hstay : t = s → ∃ rest, rest <:+ s.turns ∧ t = { s with turns := rest } := fun ht =>
    ⟨s.turns, List.suffix_rfl, ht⟩
  have htake {first : Turn} {rest : List Turn} (hs : s.turns = first :: rest) (ht : t = { s with turns := rest }) :
      ∃ rest, rest <:+ s.turns ∧ t = { s with turns := rest } := ⟨rest, hs ▸ List.suffix_cons first rest, ht⟩
  rcases fetchTurn_cases h with ⟨_, ht | ⟨_, hs, ht⟩⟩ | ⟨_, ⟨ht, _⟩ | ⟨_, hs, ht⟩⟩ | ⟨_, _, hs, _, _, ht⟩
  · exact hstay ht
  · exact htake hs ht
  · exact hstay ht
  · exact htake hs ht
  · exact htake hs ht

/-- Every step of the undisturbed block keeps it so, and takes its entries from the front of the schedule. -/
theorem Sound.next (h : Sound s) (hstep : step s = .next t) : Sound t ∧ t.turns <:+ s.turns := by
  obtain ⟨e, u, i, hf, _, hexec⟩ := step_next hstep
  rw [fetch_of_no_bench h.bench] at hf
  obtain ⟨rest, hrest, rfl⟩ := fetchTurn_frame hf
  have hturns : t.turns = rest := exec_turns hexec
  have hfifo : FifoOk { s with turns := rest } := h.fifo.congr rfl rfl rfl rfl
  exact ⟨⟨exec_keeps_fifoOk hfifo hexec, (exec_bench hexec).trans h.bench,
    fun hmem => h.noReset (hrest.mem (hturns ▸ hmem))⟩, hturns ▸ hrest⟩

theorem Sound.reaches (h : Sound s) (hst : Reaches s t) : Sound t ∧ t.turns <:+ s.turns :=
  hst.induction (P := fun u => Sound u ∧ u.turns <:+ s.turns)
    (fun _ _ hu hstep => ⟨(hu.1.next hstep).1, (hu.1.next hstep).2.trans hu.2⟩) ⟨h, List.suffix_rfl⟩

/-! ### The reader -/

/-- POP of a sound FIFO is invisible to the player. -/
theorem exec_pop_playerView (h : FifoOk s) : ∃ t, exec .pop s = .next t ∧ playerView t = playerView s := by
  by_cases hc : s.count = 0
  · exact ⟨s, if_pos (fifoEmpty_iff.mpr hc), rfl⟩
  · obtain ⟨y, _, hexec⟩ := exec_pop_of_fifoOk h (by bv_omega)
    exact ⟨_, hexec, rfl⟩

/-- So is a turn of DRAIN, which wants less afterwards (R238). -/
theorem exec_drain_playerView (h : FifoOk s) (n : Nat) :
    ∃ t, exec (.drain n) s = .next t ∧ playerView t = playerView s ∧ (n ≠ 0 → t.drainLeft < n) := by
  by_cases hc : n = 0 ∨ fifoEmpty s = true
  · exact ⟨_, if_pos hc, rfl, Nat.pos_of_ne_zero⟩
  · obtain ⟨hn, hne⟩ := not_or.mp hc
    have hpos : 0 < s.count.toNat := by
      rw [fifoEmpty_iff] at hne
      bv_omega
    obtain ⟨y, hy⟩ := h.oldest hpos
    exact ⟨_, (execDrain_of_pos hn hpos).trans (whenReadable_next.mpr ⟨_, hy, rfl⟩), rfl,
      fun _ => Nat.sub_one_lt hn⟩

/-! ### A step during a play -/

/-- The schedule always gives something to do where the block's own work does. -/
theorem fetchTurn_ok {e : Encoded} (h : ownWork s = .ok e) : ∃ e' t, fetchTurn s = .ok (e', t) := by
  obtain ⟨e', hidle⟩ : ∃ e', idleWork s = .ok e' := by
    by_cases hd : s.drainLeft = 0
    · exact ⟨e, (idleWork_of_no_drain hd).trans h⟩
    · exact ⟨_, idleWork_of_drain hd⟩
  cases ht : s.turns with
  | nil => exact ⟨_, _, fetchTurn_of_idle hidle (.inl ht)⟩
  | cons turn rest =>
    cases turn with
    | own => exact ⟨_, _, fetchTurn_of_own ht h⟩
    | reader => exact ⟨_, _, fetchTurn_of_reader ht⟩
    | offer o =>
      cases hw : mustWait o s with
      | true => exact ⟨_, _, fetchTurn_of_idle hidle (.inr ⟨o, rest, ht, hw⟩)⟩
      | false => exact ⟨_, _, fetchTurn_of_offer ht hw⟩

/-- An entry that is taken from the schedule is performed on what is left of it. -/
theorem Sound.step_of_taken (h : Sound s) {rest : List Turn} {e : Encoded} {i : Instr}
    (hf : fetchTurn s = .ok (e, { s with turns := rest })) (hd : decode e = .ok i)
    (hexec : exec i { s with turns := rest } = .next t) : step s = .next t ∧ t.turns = rest :=
  ⟨(step_of_fetchTurn h.bench hf hd).trans hexec, exec_turns hexec⟩

/-- A step of the reader: invisible to the player, it takes an entry from the schedule or a symbol from the DRAIN that is
outstanding. -/
structure ReaderStep (s t : State) : Prop where
  step : step s = .next t
  view : playerView t = playerView s
  progress : t.turns.length < s.turns.length ∨ t.turns = s.turns ∧ t.drainLeft < s.drainLeft

/-- A step of a play is the player's own next instruction, in a state that the player cannot tell from `s`, or a step of
the reader (R281, R282). -/
theorem Sound.step_in_play (h : Sound s) (hphase : s.phase = .play) {e : Encoded} {i : Instr}
    (hown : ownWork s = .ok e) (hd : decode e = .ok i) :
    (∃ u, playerView u = playerView s ∧ step s = exec i u) ∨ ∃ t, ReaderStep s t := by
  have taken {first : Turn} {rest : List Turn} {j : Instr} {e' : Encoded} (hs : s.turns = first :: rest)
      (hf : fetchTurn s = .ok (e', { s with turns := rest })) (hdec : decode e' = .ok j)
      (hj : ∃ t, exec j { s with turns := rest } = .next t ∧ playerView t = playerView s) :
      ∃ t, ReaderStep s t := by
    obtain ⟨t, hexec, hview⟩ := hj
    obtain ⟨hstep, hturns⟩ := h.step_of_taken hf hdec hexec
    exact ⟨t, hstep, hview, .inl (by simp [hturns, hs])⟩
  have hfifo (rest : List Turn) : FifoOk { s with turns := rest } := h.fifo.congr rfl rfl rfl rfl
  have drain (rest : List Turn) (n : Nat) :
      ∃ t, exec (.drain n) { s with turns := rest } = .next t ∧ playerView t = playerView s := by
    obtain ⟨t, hexec, hview, _⟩ := exec_drain_playerView (hfifo rest) n
    exact ⟨t, hexec, hview⟩
  obtain ⟨e', u, hf⟩ := fetchTurn_ok hown
  rcases fetchTurn_cases hf with ⟨hown', hu⟩ | ⟨rfl, ⟨rfl, hleft⟩ | ⟨rest, hs, rfl⟩⟩ | ⟨o, rest, hs, hgo, rfl, rfl⟩
  · obtain rfl : e = e' := Except.ok.inj (hown.symm.trans hown')
    refine .inl ⟨u, ?_, step_of_fetchTurn h.bench hf hd⟩
    rcases hu with rfl | ⟨rest, _, rfl⟩ <;> rfl
  · obtain ⟨t, hexec, hview, hless⟩ := exec_drain_playerView h.fifo u.drainLeft
    exact .inr ⟨t, (step_of_fetchTurn h.bench hf rfl).trans hexec, hview, .inr ⟨exec_turns hexec, hless hleft⟩⟩
  · exact .inr (taken hs hf rfl (drain rest _))
  · cases o with
    | word w | text b => simp [mustWait, txReady, hphase] at hgo
    | tick =>
      obtain rfl : e = .op .tick := Except.ok.inj (hown.symm.trans (ownWork_of_time hgo))
      exact .inl ⟨{ s with turns := rest }, rfl, step_of_fetchTurn h.bench hf hd⟩
    | pop => exact .inr (taken hs hf rfl (exec_pop_playerView (hfifo rest)))
    | drain n => exact .inr (taken hs hf rfl (drain rest n))
    | reset => exact absurd (hs ▸ List.mem_cons_self) h.noReset

end

/-! ## Plays that no schedule can change -/

/-- Whatever the agents do, the block goes from what the player sees as `v` to what it sees as `w`. -/
def Plays (v w : State) : Prop :=
  ∀ s, playerView s = v → Sound s → ∃ t, Reaches s t ∧ playerView t = w

theorem Plays.refl (v : State) : Plays v v := fun s hs _ => ⟨s, .refl s, hs⟩

theorem Plays.trans {v w x : State} (hvw : Plays v w) (hwx : Plays w x) : Plays v x := fun s hs hsound => by
  obtain ⟨t, hst, ht⟩ := hvw s hs hsound
  obtain ⟨u, htu, hu⟩ := hwx t ht (hsound.reaches hst).1
  exact ⟨u, hst.trans htu, hu⟩

/-- An instruction of the player that has the same visible effect wherever the player sees `v` is a play: only finitely
many steps of the reader come before it. -/
theorem plays_of_ownWork {v w : State} {e : Encoded} {i : Instr} (hphase : v.phase = .play) (hown : ownWork v = .ok e)
    (hd : decode e = .ok i) (hexec : ∀ s, playerView s = v → ∃ t, exec i s = .next t ∧ playerView t = w) :
    Plays v w := by
  intro s hs hsound
  have hphase' : s.phase = .play := by rw [← hs] at hphase; exact hphase
  have hown' : ownWork s = .ok e := by rw [← hs] at hown; exact hown
  rcases hsound.step_in_play hphase' hown' hd with ⟨u, hu, hstep⟩ | ⟨t, hstep, ht, hless⟩
  · obtain ⟨t, ht, hw⟩ := hexec u (hu.trans hs)
    exact ⟨t, .head (hstep.trans ht) (.refl t), hw⟩
  · obtain ⟨u, htu, hu⟩ := plays_of_ownWork hphase hown hd hexec t (ht.trans hs) (hsound.next hstep).1
    exact ⟨u, .head hstep htu, hu⟩
termination_by s => (s.turns.length, s.drainLeft)
decreasing_by
  rcases hless with hturns | ⟨hturns, hleft⟩
  · exact .left _ _ hturns
  · exact hturns ▸ .right _ hleft

/-! ## The player's instructions as plays -/

/-- What the player sees of an APPEND is its event, stored or dropped (R208). -/
theorem playerView_emitAppend (sym : Symbol) (s : State) :
    playerView (emitAppend sym s) = emit (.append sym) (playerView s) := by
  rcases emitAppend_cases sym s with ⟨_, heq⟩ | ⟨_, heq⟩
  · rw [heq]; rfl
  · rw [heq]; rfl

theorem playerView_tickOp (s : State) : playerView (tickOp s) = tickOp (playerView s) := by
  have hexpiry (u : State) : playerView (expiryOp u) = expiryOp (playerView u) := by
    have hp : (playerView u).pState = u.pState := rfl
    unfold expiryOp
    rw [hp]
    cases u.pState <;> rfl
  have hp : (playerView s).pState = s.pState := rfl
  have hw : (playerView s).waitCnt = s.waitCnt := rfl
  unfold tickOp
  rw [hp, hw]
  cases s.pState.holding with
  | false => rfl
  | true =>
    by_cases hlast : 1 < s.waitCnt.toNat
    · simp only [if_true, if_pos hlast]; rfl
    · simp only [if_true, if_neg hlast]; exact hexpiry _

/-! ### What the player sees of the operations that append a symbol -/

/-- A word gap begins (R194). -/
def gapBegun (v : State) : State :=
  { v with curGap := true, trace := v.trace ++ [⟨v.now, .append .space⟩], waitCnt := wordGapUnits, pState := .pWgap }

/-- The element `e` begins (R197, R198). -/
def elementBegun (e : Elem) (v : State) : State :=
  { v with
    led := true
    trace := v.trace ++ [⟨v.now, .on⟩] ++ [⟨v.now, .append (symbolOf e)⟩]
    curElem := e
    waitCnt := BitVec.ofNat 2 (onUnits e)
    pState := .pOn }

/-- The gap between two letters begins (R204). -/
def letterGapBegun (v : State) : State :=
  { v with trace := v.trace ++ [⟨v.now, .append .space⟩], waitCnt := letterGapUnits, pState := .pLgap }

/-- The play is over (R207). -/
def playEnded (v : State) : State :=
  { v with
    trace := v.trace ++ [⟨v.now, .append .newline⟩] ++ [⟨v.now, .done⟩]
    pState := .pIdle
    phase := .idle }

section
variable (s : State)

theorem playerView_fetchGapOp : playerView (fetchGapOp s) = gapBegun (playerView s) :=
  congrArg (fun u : State => { hold wordGapUnits u with pState := .pWgap })
    (playerView_emitAppend .space { s with curGap := true })

theorem playerView_startElement (e : Elem) :
    playerView (startElement e (symbolOf e) (BitVec.ofNat 2 (onUnits e)) s) = elementBegun e (playerView s) := by
  have happend := playerView_emitAppend (symbolOf e) (emitOn s)
  calc
    _ = { playerView (emitAppend (symbolOf e) (emitOn s)) with
          curElem := e, waitCnt := BitVec.ofNat 2 (onUnits e), pState := .pOn } := rfl
    _ = { emit (.append (symbolOf e)) (playerView (emitOn s)) with
          curElem := e, waitCnt := BitVec.ofNat 2 (onUnits e), pState := .pOn } := by rw [happend]
    _ = elementBegun e (playerView s) := rfl

theorem playerView_nextLetterOp : playerView (nextLetterOp s) = letterGapBegun (playerView s) :=
  congrArg (fun u : State => { hold letterGapUnits u with pState := .pLgap }) (playerView_emitAppend .space s)

theorem playerView_nextLastOp : playerView (nextLastOp s) = playEnded (playerView s) :=
  congrArg (fun u : State => emit .done { u with pState := .pIdle, phase := .idle }) (playerView_emitAppend .newline s)

end

/-! ### What the decoded row does -/

section
variable {s : State}

/-- The rows of format SC16 fetch the code they are decoded from (R195). -/
theorem exec_decodeSc16 {c : Code} (hp : s.pState = .pFetch) (hc : reads s c) (hgap : c ≠ gapCode) :
    exec (decodeSc16 c) s = .next (fetchLetterOp c s) := by
  have hselected {sel : Code → Bool} (hsel : sel c = true) :
      whenFetched sel fetchLetterOp s = .next (fetchLetterOp c s) :=
    whenFetched_next.mpr (.inr ⟨hp, c, currentCode_of_reads hc, by rw [if_pos hsel]⟩)
  rcases decodeSc16_cases c with ⟨h, _⟩ | ⟨k, hk, hrow⟩ | ⟨_, _, hrow⟩
  · exact absurd h hgap
  · rw [hrow, exec_code]
    exact hselected (beq_iff_eq.mpr hk)
  · rw [hrow]
    exact hselected (by simp [hgap])

/-- What a window decodes to, by the element it starts (R96). -/
theorem decodeWin3_cases : ∀ w : BitVec 3,
    (elementAt w = none ∧ ∃ xx, w = 0#1 ++ xx ∧ decodeWin3 w = .pad xx) ∨
      (elementAt w = some .dash ∧ w = 0b111 ∧ decodeWin3 w = .dash) ∨
      (elementAt w = some .dot ∧
        ((∃ x, w = 0b10#2 ++ x ∧ decodeWin3 w = .dot10 x) ∨ w = 0b110 ∧ decodeWin3 w = .dot110)) := by decide

/-- The rows of format WIN3 start the element of the window they are decoded from (R197, R198). -/
theorem exec_decodeWin3_of_element {w : BitVec 3} {e : Elem} (hw : atWindow w s = true) (he : elementAt w = some e) :
    exec (decodeWin3 w) s = .next (startElement e (symbolOf e) (BitVec.ofNat 2 (onUnits e)) s) := by
  rcases decodeWin3_cases w with ⟨hnone, _⟩ | ⟨hdash, rfl, hrow⟩ | ⟨hdot, ⟨x, rfl, hrow⟩ | ⟨rfl, hrow⟩⟩
  · rw [he] at hnone; cases hnone
  · obtain rfl : e = .dash := Option.some.inj (he.symm.trans hdash)
    rw [hrow]; exact whenEnabled_of hw
  · obtain rfl : e = .dot := Option.some.inj (he.symm.trans hdot)
    rw [hrow]; exact whenEnabled_of hw
  · obtain rfl : e = .dot := Option.some.inj (he.symm.trans hdot)
    rw [hrow]; exact whenEnabled_of hw

/-- A window that starts no element is passed (R199). -/
theorem exec_decodeWin3_of_none {w : BitVec 3} (hw : atWindow w s = true) (he : elementAt w = none) :
    exec (decodeWin3 w) s = .next (advanceBits 1 s) := by
  rcases decodeWin3_cases w with ⟨_, xx, rfl, hrow⟩ | ⟨hdash, _⟩ | ⟨hdot, _⟩
  · rw [hrow]; exact whenEnabled_of hw
  · rw [he] at hdash; cases hdash
  · rw [he] at hdot; cases hdot

end

/-! ### One instruction -/

section
variable {v : State} (hphase : v.phase = .play)
include hphase

theorem plays_fetchGap (hp : v.pState = .pFetch) (hc : reads v gapCode) : Plays v (gapBegun v) := by
  refine plays_of_ownWork hphase (ownWork_of_fetch hp hc) rfl ?_
  rintro s rfl
  have hexec : exec .gap s = .next (fetchGapOp s) :=
    whenFetched_next.mpr (.inr ⟨hp, gapCode, currentCode_of_reads hc, rfl⟩)
  exact ⟨_, hexec, playerView_fetchGapOp s⟩

theorem plays_fetchLetter {c : Code} (hp : v.pState = .pFetch) (hc : reads v c) (hgap : c ≠ gapCode) :
    Plays v (fetchLetterOp c v) := by
  refine plays_of_ownWork hphase (ownWork_of_fetch hp hc) rfl ?_
  rintro s rfl
  exact ⟨_, exec_decodeSc16 hp hc hgap, rfl⟩

theorem plays_element {e : Elem} (hp : v.pState = .pWalk) (hbits : v.bitCnt.toNat < 16)
    (he : elementAt (window v.shreg) = some e) : Plays v (elementBegun e v) := by
  refine plays_of_ownWork hphase ((ownWork_of_walk hp).trans (by rw [if_pos hbits])) rfl ?_
  rintro s rfl
  exact ⟨_, exec_decodeWin3_of_element (atWindow_iff.mpr ⟨hp, hbits, rfl⟩) he, playerView_startElement s e⟩

theorem plays_pad (hp : v.pState = .pWalk) (hbits : v.bitCnt.toNat < 16) (he : elementAt (window v.shreg) = none) :
    Plays v (advanceBits 1 v) := by
  refine plays_of_ownWork hphase ((ownWork_of_walk hp).trans (by rw [if_pos hbits])) rfl ?_
  rintro s rfl
  exact ⟨_, exec_decodeWin3_of_none (atWindow_iff.mpr ⟨hp, hbits, rfl⟩) he, rfl⟩

theorem plays_walkEnd (hp : v.pState = .pWalk) (hbits : v.bitCnt = 16) : Plays v (toNextOp v) := by
  refine plays_of_ownWork hphase ((ownWork_of_walk hp).trans (by rw [hbits])) rfl ?_
  rintro s rfl
  have hexec : exec .walkEnd s = .next (toNextOp s) :=
    whenEnabled_of (by rw [Bool.and_eq_true, beq_iff_eq, beq_iff_eq]; exact ⟨hp, hbits⟩)
  exact ⟨_, hexec, rfl⟩

theorem plays_tick (hh : v.pState.holding = true) : Plays v (tickOp v) := by
  have hinst : v.pState.instantaneous = false := by
    rw [← Bool.not_eq_true]
    intro h
    rw [holding_of_instantaneous h] at hh
    cases hh
  refine plays_of_ownWork hphase (ownWork_of_time hinst) rfl ?_
  rintro s rfl
  have hexec : exec .tick s = .next (tickOp s) := whenEnabled_of (tickEnabled_iff.mpr (.inl hh))
  exact ⟨_, hexec, playerView_tickOp s⟩

theorem plays_nextLast (hp : v.pState = .pNext) (hlast : v.rdIdx = v.seqLen - 1) : Plays v (playEnded v) := by
  refine plays_of_ownWork hphase ((ownWork_of_next hp).trans (by rw [if_pos hlast])) rfl ?_
  rintro s rfl
  have hexec : exec .nextLast s = .next (nextLastOp s) :=
    whenEnabled_of (by rw [Bool.and_eq_true, beq_iff_eq, lastCode_iff]; exact ⟨hp, hlast⟩)
  exact ⟨_, hexec, playerView_nextLastOp s⟩

theorem plays_nextGap (hp : v.pState = .pNext) (hlast : v.rdIdx ≠ v.seqLen - 1) (hgap : v.curGap = true) :
    Plays v (nextCodeOp v) := by
  refine plays_of_ownWork hphase ((ownWork_of_next hp).trans (by rw [if_neg hlast, if_pos hgap])) rfl ?_
  rintro s rfl
  have hexec : exec .nextGap s = .next (nextCodeOp s) := whenEnabled_of <| by
    simp only [Bool.and_eq_true, beq_iff_eq, Bool.not_eq_true', ← Bool.not_eq_true, lastCode_iff]
    exact ⟨⟨hp, hlast⟩, hgap⟩
  exact ⟨_, hexec, rfl⟩

theorem plays_nextLetter (hp : v.pState = .pNext) (hlast : v.rdIdx ≠ v.seqLen - 1) (hgap : v.curGap = false) :
    Plays v (letterGapBegun v) := by
  refine plays_of_ownWork hphase ((ownWork_of_next hp).trans (by rw [if_neg hlast, hgap])) rfl ?_
  rintro s rfl
  have hexec : exec .nextLetter s = .next (nextLetterOp s) := whenEnabled_of <| by
    simp only [Bool.and_eq_true, beq_iff_eq, Bool.not_eq_true', ← Bool.not_eq_true, lastCode_iff]
    exact ⟨⟨hp, hlast⟩, Bool.eq_false_iff.mp hgap⟩
  exact ⟨_, hexec, playerView_nextLetterOp s⟩

end

/-! ### A whole hold -/

theorem tickOp_of_last {v : State} (hh : v.pState.holding = true) (hw : v.waitCnt.toNat ≤ 1) :
    tickOp v = expiryOp (holdEnded v) := by
  simp [tickOp, hh, Nat.not_lt.mpr hw, holdEnded]

theorem tickOp_of_more {v : State} (hh : v.pState.holding = true) (hw : 1 < v.waitCnt.toNat) :
    tickOp v = { v with now := v.now + 1, waitCnt := v.waitCnt - 1 } := by
  simp [tickOp, hh, hw]

/-- `k` base units later, at the end of a hold. -/
def waited (k : Nat) (v : State) : State := { v with now := v.now + k, waitCnt := 0 }

section
variable (k : Nat) (v : State)

@[simp] theorem waited_phase : (waited k v).phase = v.phase := rfl
@[simp] theorem waited_seqLen : (waited k v).seqLen = v.seqLen := rfl
@[simp] theorem waited_seqMem : (waited k v).seqMem = v.seqMem := rfl
@[simp] theorem waited_pState : (waited k v).pState = v.pState := rfl
@[simp] theorem waited_rdIdx : (waited k v).rdIdx = v.rdIdx := rfl
@[simp] theorem waited_shreg : (waited k v).shreg = v.shreg := rfl
@[simp] theorem waited_bitCnt : (waited k v).bitCnt = v.bitCnt := rfl
@[simp] theorem waited_curElem : (waited k v).curElem = v.curElem := rfl
@[simp] theorem waited_curGap : (waited k v).curGap = v.curGap := rfl
@[simp] theorem waited_trace : (waited k v).trace = v.trace := rfl
@[simp] theorem waited_now : (waited k v).now = v.now + k := rfl

end

/-- A hold of `k` base units lasts `k` TICKs, and the expiry rule ends it (R200). -/
theorem plays_hold {k : Nat} {v : State} (hphase : v.phase = .play) (hh : v.pState.holding = true)
    (hk : v.waitCnt.toNat = k) (hpos : 0 < k) : Plays v (expiryOp (waited k v)) := by
  induction k, hpos using Nat.le_induction generalizing v with
  | base =>
    have h := plays_tick hphase hh
    rwa [tickOp_of_last hh hk.le] at h
  | succ k hpos ih =>
    have h := plays_tick hphase hh
    rw [tickOp_of_more hh (by omega)] at h
    have hrest := ih (v := { v with now := v.now + 1, waitCnt := v.waitCnt - 1 }) hphase hh (by simp only; bv_omega)
    have hsame : waited k { v with now := v.now + 1, waitCnt := v.waitCnt - 1 } = waited (k + 1) v := by
      rw [waited, waited, Nat.add_comm k 1, ← Nat.add_assoc]
    exact h.trans (hsame ▸ hrest)

/-! ## The trace of a sequence -/

/-- From `v` to `w` the same sequence is played, `tr` is recorded, and the time is `t`. -/
structure Records (v w : State) (tr : List Stamped) (t : Nat) : Prop where
  phase : w.phase = v.phase
  seqLen : w.seqLen = v.seqLen
  seqMem : w.seqMem = v.seqMem
  trace : w.trace = v.trace ++ tr
  now : w.now = t

theorem Records.trans {v w x : State} {tr tr' : List Stamped} {t t' : Nat} (h : Records v w tr t)
    (h' : Records w x tr' t') : Records v x (tr ++ tr') t' where
  phase := h'.phase.trans h.phase
  seqLen := h'.seqLen.trans h.seqLen
  seqMem := h'.seqMem.trans h.seqMem
  trace := by rw [h'.trace, h.trace, List.append_assoc]
  now := h'.now

/-! ### One element -/

section
variable (e : Elem) (v : State)

@[simp] theorem elementBegun_phase : (elementBegun e v).phase = v.phase := rfl
@[simp] theorem elementBegun_seqLen : (elementBegun e v).seqLen = v.seqLen := rfl
@[simp] theorem elementBegun_seqMem : (elementBegun e v).seqMem = v.seqMem := rfl
@[simp] theorem elementBegun_pState : (elementBegun e v).pState = .pOn := rfl
@[simp] theorem elementBegun_rdIdx : (elementBegun e v).rdIdx = v.rdIdx := rfl
@[simp] theorem elementBegun_shreg : (elementBegun e v).shreg = v.shreg := rfl
@[simp] theorem elementBegun_bitCnt : (elementBegun e v).bitCnt = v.bitCnt := rfl
@[simp] theorem elementBegun_curElem : (elementBegun e v).curElem = e := rfl
@[simp] theorem elementBegun_curGap : (elementBegun e v).curGap = v.curGap := rfl
@[simp] theorem elementBegun_now : (elementBegun e v).now = v.now := rfl
@[simp] theorem elementBegun_trace :
    (elementBegun e v).trace = v.trace ++ [⟨v.now, .on⟩, ⟨v.now, .append (symbolOf e)⟩] := by
  simp [elementBegun]

/-- The state after an element, its hold and its gap: the walk goes on behind it (R197, R198, R201, R202). -/
def elementPlayed : State :=
  advanceBits (advance e) (waited 1 (onExpiryOp (waited (onUnits e) (elementBegun e v))))

@[simp] theorem elementPlayed_pState : (elementPlayed e v).pState = .pWalk := rfl
@[simp] theorem elementPlayed_rdIdx : (elementPlayed e v).rdIdx = v.rdIdx := by simp [elementPlayed]
@[simp] theorem elementPlayed_curGap : (elementPlayed e v).curGap = v.curGap := by simp [elementPlayed]
@[simp] theorem elementPlayed_now : (elementPlayed e v).now = v.now + onUnits e + 1 := by simp [elementPlayed]
@[simp] theorem elementPlayed_shreg : (elementPlayed e v).shreg = shl16 v.shreg (advance e) := by simp [elementPlayed]
@[simp] theorem elementPlayed_bitCnt : (elementPlayed e v).bitCnt = v.bitCnt + BitVec.ofNat 5 (advance e) := by
  simp [elementPlayed]

theorem records_elementPlayed : Records v (elementPlayed e v) (elementTrace v.now e) (v.now + onUnits e + 1) where
  phase := by simp [elementPlayed]
  seqLen := by simp [elementPlayed]
  seqMem := by simp [elementPlayed]
  trace := by simp [elementPlayed, elementTrace]
  now := by simp

variable {e v}

theorem plays_elementPlayed (hphase : v.phase = .play) (hp : v.pState = .pWalk) (hbits : v.bitCnt.toNat < 16)
    (he : elementAt (window v.shreg) = some e) : Plays v (elementPlayed e v) := by
  have hunits : (BitVec.ofNat 2 (onUnits e)).toNat = onUnits e ∧ 0 < onUnits e := by
    cases e with
    | dot | dash => decide
  have hon : Plays (elementBegun e v) (onExpiryOp (waited (onUnits e) (elementBegun e v))) :=
    plays_hold (v := elementBegun e v) hphase rfl hunits.1 hunits.2
  have hoff : Plays (onExpiryOp (waited (onUnits e) (elementBegun e v))) (elementPlayed e v) :=
    plays_hold (k := 1) (v := onExpiryOp (waited (onUnits e) (elementBegun e v))) (by simpa using hphase) rfl rfl one_pos
  exact (plays_element hphase hp hbits he).trans (hon.trans hoff)

end

/-! ### One code -/

/-- The walk of the function takes the element that the window starts (R217). -/
theorem elementsFrom_element {v : Code} {n : Nat} {e : Elem} (he : elementAt (window v) = some e) :
    elementsFrom (n + advance e) v = e :: elementsFrom n (shl16 v (advance e)) := by
  cases e with
  | dot => exact elementsFrom_dot he
  | dash => exact elementsFrom_dash he

theorem advance_pos (e : Elem) : 0 < advance e := by
  cases e with
  | dot | dash => decide

theorem toNat_bitCnt_advance {b : BitVec 5} {k : Nat} (h : b.toNat + k ≤ 16) :
    (b + BitVec.ofNat 5 k).toNat = b.toNat + k := by
  rw [BitVec.toNat_add, BitVec.toNat_ofNat]
  omega

/-- From `v` the player comes to the end of the walk, having recorded the elements `es`. -/
structure WalksTo (v w : State) (es : List Elem) : Prop where
  plays : Plays v w
  pState : w.pState = .pNext
  bitCnt : w.bitCnt.toNat = 16
  curGap : w.curGap = v.curGap
  rdIdx : w.rdIdx = v.rdIdx
  records : Records v w (elementsTrace v.now es).1 (elementsTrace v.now es).2

section
variable {v w : State} {es : List Elem}

/-- A bit that starts no element is passed in zero time (R199). -/
theorem WalksTo.pad (hphase : v.phase = .play) (hp : v.pState = .pWalk) (hbits : v.bitCnt.toNat < 16)
    (he : elementAt (window v.shreg) = none) (h : WalksTo (advanceBits 1 v) w es) : WalksTo v w es := by
  obtain ⟨hw, hnext, hend, hgap, hidx, hrec⟩ := h
  exact ⟨(plays_pad hphase hp hbits he).trans hw, hnext, hend, hgap, hidx,
    hrec.phase, hrec.seqLen, hrec.seqMem, hrec.trace, hrec.now⟩

theorem WalksTo.element {e : Elem} (hphase : v.phase = .play) (hp : v.pState = .pWalk) (hbits : v.bitCnt.toNat < 16)
    (he : elementAt (window v.shreg) = some e) (h : WalksTo (elementPlayed e v) w es) : WalksTo v w (e :: es) := by
  obtain ⟨hw, hnext, hend, hgap, hidx, hrec⟩ := h
  rw [elementPlayed_now] at hrec
  exact ⟨(plays_elementPlayed hphase hp hbits he).trans hw, hnext, hend, hgap.trans (elementPlayed_curGap e v),
    hidx.trans (elementPlayed_rdIdx e v), (records_elementPlayed e v).trans hrec⟩

end

/-- From any bit position of a code the walk plays the elements that are left, and ends at position 16 (R196, R217). -/
theorem walksTo_of_walk {c : Code} {n : Nat} {v : State} (hphase : v.phase = .play) (hp : v.pState = .pWalk)
    (hbits : v.bitCnt.toNat + n = 16) (hshreg : v.shreg = shl16 c v.bitCnt.toNat) :
    ∃ w, WalksTo v w (elementsFrom n v.shreg) := by
  induction n using Nat.strong_induction_on generalizing v with
  | _ n ih =>
  cases n with
  | zero =>
    have hend : v.bitCnt = 16 := BitVec.eq_of_toNat_eq hbits
    exact ⟨toNextOp v, plays_walkEnd hphase hp hend, rfl, hbits, rfl, rfl, rfl, rfl, rfl, (List.append_nil _).symm, rfl⟩
  | succ n =>
    have hlt : v.bitCnt.toNat < 16 := by omega
    cases he : elementAt (window v.shreg) with
    | none =>
      have hbit : (advanceBits 1 v).bitCnt.toNat = v.bitCnt.toNat + 1 := toNat_bitCnt_advance hlt
      obtain ⟨w, hw⟩ := ih n (Nat.lt_succ_self n) (v := advanceBits 1 v) hphase rfl (by omega)
        (by rw [hbit, advanceBits_shreg, hshreg, shl16_shl16])
      rw [elementsFrom_pad he]
      exact ⟨w, hw.pad hphase hp hlt he⟩
    | some e =>
      have hle : v.bitCnt.toNat + advance e ≤ 16 := bitCnt_add_advance_le (hshreg ▸ he) hlt
      have hpos := advance_pos e
      obtain ⟨m, hm⟩ : ∃ m, n + 1 = m + advance e := ⟨n + 1 - advance e, by omega⟩
      have hbit : (elementPlayed e v).bitCnt.toNat = v.bitCnt.toNat + advance e := by
        rw [elementPlayed_bitCnt, toNat_bitCnt_advance hle]
      obtain ⟨w, hw⟩ := ih m (by omega) (v := elementPlayed e v) ((records_elementPlayed e v).phase.trans hphase) rfl
        (by omega) (by rw [hbit, elementPlayed_shreg, hshreg, shl16_shl16])
      rw [hm, elementsFrom_element he]
      rw [elementPlayed_shreg] at hw
      exact ⟨w, hw.element hphase hp hlt he⟩

section
variable {v : State} (hphase : v.phase = .play) (hp : v.pState = .pFetch)
include hphase hp

/-- From its fetch on a letter code plays its elements (R195, R217). -/
theorem plays_letterCode {c : Code} (hc : reads v c) (hgap : c ≠ gapCode) :
    ∃ w, Plays v w ∧ w.pState = .pNext ∧ w.bitCnt.toNat = 16 ∧ w.curGap = false ∧ w.rdIdx = v.rdIdx ∧
      Records v w (elementsTrace v.now (elements c)).1 (elementsTrace v.now (elements c)).2 := by
  obtain ⟨w, hw, hnext, hend, hcur, hidx, hrec⟩ :=
    walksTo_of_walk (c := c) (n := 16) (v := fetchLetterOp c v) hphase rfl rfl (by simp [shl16])
  exact ⟨w, (plays_fetchLetter hphase hp hc hgap).trans hw, hnext, hend, hcur, hidx,
    hrec.phase, hrec.seqLen, hrec.seqMem, hrec.trace, hrec.now⟩

/-- From its fetch on a code records its trace (R194, R195, R203, R211). -/
theorem plays_code {c : Code} (hc : reads v c) :
    ∃ w, Plays v w ∧ w.pState = .pNext ∧ w.curGap = decide (c = gapCode) ∧ w.rdIdx = v.rdIdx ∧
      Records v w (codeTrace v.now c).1 (codeTrace v.now c).2 := by
  by_cases hgap : c = gapCode
  · subst hgap
    exact ⟨toNextOp (waited 1 (gapBegun v)), (plays_fetchGap hphase hp hc).trans (plays_hold hphase rfl rfl one_pos),
      rfl, rfl, rfl, rfl, rfl, rfl, rfl, rfl⟩
  · obtain ⟨w, hw, hnext, _, hcur, hidx, hrec⟩ := plays_letterCode hphase hp hc hgap
    refine ⟨w, hw, hnext, by simp [hcur, hgap], hidx, ?_⟩
    rwa [codeTrace, if_neg hgap]

end

/-! ### From one code to the next -/

/-- What is recorded between a code and its successor, from time `t` on: after a word gap nothing, after a letter a space
and one unit (R204, R205). -/
def betweenCodes (t : Nat) (c : Code) : List Stamped × Nat :=
  if c = gapCode then ([], t) else ([⟨t, .append .space⟩], t + 1)

theorem playTrace_cons_cons (t : Nat) (c d : Code) (cs : List Code) :
    playTrace t (c :: d :: cs) =
      let code := codeTrace t c
      let next := betweenCodes code.2 c
      let rest := playTrace next.2 (d :: cs)
      (code.1 ++ next.1 ++ rest.1, rest.2) := by
  by_cases hc : c = gapCode
  · simp [playTrace, betweenCodes, hc]
  · simp [playTrace, betweenCodes, hc]

theorem plays_next {v : State} {c : Code} (hphase : v.phase = .play) (hp : v.pState = .pNext)
    (hlast : v.rdIdx ≠ v.seqLen - 1) (hgap : v.curGap = decide (c = gapCode)) :
    ∃ w, Plays v w ∧ w.pState = .pFetch ∧ w.rdIdx = v.rdIdx + 1 ∧
      Records v w (betweenCodes v.now c).1 (betweenCodes v.now c).2 := by
  by_cases hc : c = gapCode
  · rw [betweenCodes, if_pos hc]
    exact ⟨nextCodeOp v, plays_nextGap hphase hp hlast (by simp [hgap, hc]), rfl, rfl, rfl, rfl, rfl,
      (List.append_nil _).symm, rfl⟩
  · rw [betweenCodes, if_neg hc]
    exact ⟨nextCodeOp (waited 1 (letterGapBegun v)),
      (plays_nextLetter hphase hp hlast (by simp [hgap, hc])).trans (plays_hold hphase rfl rfl one_pos),
      rfl, rfl, rfl, rfl, rfl, rfl, rfl⟩

/-! ### The whole sequence -/

/-- From the fetch of the code at `rd_idx` on the rest `cs` of the sequence records its trace and the play ends
(R207, R217). -/
theorem plays_sequence {cs : List Code} {v : State} (hne : cs ≠ []) (hphase : v.phase = .play) (hp : v.pState = .pFetch)
    (hlen : v.seqLen.toNat = v.rdIdx.toNat + cs.length) (hle : v.seqLen.toNat ≤ 512)
    (hcodes : ∀ k, k < cs.length → memRead v.seqMem (v.rdIdx.toNat + k) = cs[k]?) :
    ∃ w, Plays v w ∧ w.phase = .idle ∧ w.pState = .pIdle ∧ w.trace = v.trace ++ (playTrace v.now cs).1 ∧
      w.now = (playTrace v.now cs).2 := by
  induction cs generalizing v with
  | nil => exact absurd rfl hne
  | cons c cs ih =>
    rw [List.length_cons] at hlen
    have hc : reads v c := ⟨by omega, hcodes 0 (Nat.zero_lt_succ _)⟩
    obtain ⟨w, hw, hnext, hcur, hidx, hrec⟩ := plays_code hphase hp hc
    have hwphase := hrec.phase.trans hphase
    have hpred : (v.seqLen - 1).toNat = v.seqLen.toNat - 1 := toNat_pred_of_pos (by omega)
    cases cs with
    | nil =>
      have hlast : w.rdIdx = w.seqLen - 1 := by
        rw [hidx, hrec.seqLen]
        exact BitVec.eq_of_toNat_eq (by rw [hpred]; simp at hlen; omega)
      refine ⟨playEnded w, hw.trans (plays_nextLast hwphase hnext hlast), rfl, rfl, ?_, hrec.now⟩
      simp [playEnded, playTrace, hrec.trace, hrec.now]
    | cons d cs =>
      rw [List.length_cons] at hlen
      have hlast : w.rdIdx ≠ w.seqLen - 1 := by
        rw [hidx, hrec.seqLen]
        exact fun h => absurd (congrArg BitVec.toNat h) (by rw [hpred]; omega)
      obtain ⟨x, hx, hfetch, hxidx, hxrec⟩ := plays_next hwphase hnext hlast hcur
      have hxidx' : x.rdIdx.toNat = v.rdIdx.toNat + 1 := by rw [hxidx, hidx, toNat_succ_of_lt (by omega)]
      have hvx := hrec.trans hxrec
      obtain ⟨y, hy, hyphase, hypst, hytrace, hynow⟩ := ih (List.cons_ne_nil d cs) (v := x) (hvx.phase.trans hphase)
        hfetch (by rw [hvx.seqLen, hxidx', List.length_cons]; omega) (by rw [hvx.seqLen]; exact hle)
        (fun k hk => by
          rw [hvx.seqMem, hxidx', Nat.add_assoc, Nat.add_comm 1 k, hcodes (k + 1) (Nat.succ_lt_succ hk)]
          rfl)
      refine ⟨y, (hw.trans hx).trans hy, hyphase, hypst, ?_, ?_⟩
      · rw [hytrace, hvx.trace, hvx.now, hrec.now, playTrace_cons_cons, List.append_assoc]
      · rw [hynow, hvx.now, hrec.now, playTrace_cons_cons]

/-- The play of a sequence, from the fetch of its first code to the idle block, under any schedule (R217, R282). -/
theorem Sound.reaches_end_of_play {cs : List Code} {s : State} (h : Sound s) (hne : cs ≠ []) (hphase : s.phase = .play)
    (hp : s.pState = .pFetch) (hidx : s.rdIdx = 0) (hlen : s.seqLen.toNat = cs.length) (hle : cs.length ≤ 512)
    (hcodes : ∀ k, k < cs.length → memRead s.seqMem k = cs[k]?) :
    ∃ t, Reaches s t ∧ t.phase = .idle ∧ t.pState = .pIdle ∧ t.trace = s.trace ++ (playTrace s.now cs).1 ∧
      t.now = (playTrace s.now cs).2 := by
  have hzero : s.rdIdx.toNat = 0 := by rw [hidx]; rfl
  obtain ⟨w, hw, hwphase, hwp, hwtrace, hwnow⟩ := plays_sequence (v := playerView s) hne hphase hp
    (show s.seqLen.toNat = s.rdIdx.toNat + cs.length by omega) (hlen.trans_le hle)
    (fun k hk => show memRead s.seqMem (s.rdIdx.toNat + k) = cs[k]? by rw [hzero, Nat.zero_add, hcodes k hk])
  obtain ⟨t, hst, rfl⟩ := hw s rfl h
  exact ⟨t, hst, hwphase, hwp, hwtrace, hwnow⟩

end Sys2Proof.Machine
end

section
/-! PROOF of the statement of spec/41_encoder.md about a whole write (R168, R170, R217, R282; the schedule is log entry 3):
the words of a text build its sequence whatever happens between them, END cuts it, and the play of what is left is that of
the player under any schedule. -/

namespace Sys2Proof.Machine

/-! ## Between the words -/

/-- The part of a state that stays as it is while time passes and the reader reads: the builder, the player, the trace. -/
def builderView (s : State) : State := { playerView s with now := 0 }

section
variable {s t : State} {a : Built}

theorem builderView_of_playerView (h : playerView t = playerView s) : builderView t = builderView s :=
  congrArg (fun u : State => { u with now := 0 }) h

theorem builds_builderView : Builds (builderView s) a ↔ Builds s a :=
  ⟨fun h => ⟨h.phase, h.seqLen, h.boundary, h.pendingSpace, h.seqOvf, h.codes⟩,
    fun h => ⟨h.phase, h.seqLen, h.boundary, h.pendingSpace, h.seqOvf, h.codes⟩⟩

theorem builderView_writeBegun (s : State) : builderView (writeBegun s) = writeBegun (builderView s) := by
  have hp : (builderView s).phase = s.phase := rfl
  unfold writeBegun
  rw [hp]
  split <;> rfl

theorem builds_writeBegun_of_view (hview : builderView t = builderView s) (h : Builds (writeBegun s) a) :
    Builds (writeBegun t) a := by
  rw [← builds_builderView, builderView_writeBegun, hview, ← builderView_writeBegun, builds_builderView]
  exact h

/-- A block outside a play, undisturbed, that has built `a` or, where it is idle, begins with it. -/
structure Writing (s : State) (a : Built) : Prop where
  inv : Inv s
  sound : Sound s
  phase : s.phase ≠ .play
  builds : Builds (writeBegun s) a

/-- A step between the words leaves what is built as it is. -/
theorem Writing.congr (h : Writing s a) (hstep : step s = .next t) (hview : builderView t = builderView s) :
    Writing t a where
  inv := everyStepKeepsTheInvariants s t h.inv hstep
  sound := (h.sound.next hstep).1
  phase := by
    have hp : (builderView t).phase ≠ .play := hview ▸ h.phase
    exact hp
  builds := builds_writeBegun_of_view hview h.builds

/-- A TICK outside a play only counts on the observer's clock (R200). -/
theorem exec_tick_of_pIdle (hp : s.pState = .pIdle) (hphase : s.phase ≠ .play) :
    exec .tick s = .next { s with now := s.now + 1 } := by
  have henabled : tickEnabled s = true := tickEnabled_iff.mpr (.inr ⟨hphase, by rw [hp]; rfl⟩)
  have hop : tickOp s = { s with now := s.now + 1 } := by simp [tickOp, hp, PState.holding]
  exact (whenEnabled_of henabled).trans (congrArg _ hop)

/-- An entry of the schedule that is no word leaves what is built. -/
theorem Writing.other_turn (h : Writing s a) {turn : Turn} {rest : List Turn} (ht : s.turns = turn :: rest)
    (hword : txWord turn = none) :
    ∃ t, step s = .next t ∧ Writing t a ∧ t.turns = rest ∧ t.trace = s.trace := by
  have hidle : s.pState = .pIdle := h.inv.pIdle_of_not_play h.phase
  have hinst : s.pState.instantaneous = false := by rw [hidle]; rfl
  have hfifo : FifoOk { s with turns := rest } := h.inv.fifo.congr rfl rfl rfl rfl
  have taken {e : Encoded} {i : Instr} (hf : fetchTurn s = .ok (e, { s with turns := rest })) (hd : decode e = .ok i)
      (hexec : ∃ t, exec i { s with turns := rest } = .next t ∧ builderView t = builderView s) :
      ∃ t, step s = .next t ∧ Writing t a ∧ t.turns = rest ∧ t.trace = s.trace := by
    obtain ⟨t, hexec, hview⟩ := hexec
    obtain ⟨hstep, hturns⟩ := h.sound.step_of_taken hf hd hexec
    have htrace : (builderView t).trace = (builderView s).trace := by rw [hview]
    exact ⟨t, hstep, h.congr hstep hview, hturns, htrace⟩
  have tick : ∃ t, exec .tick { s with turns := rest } = .next t ∧ builderView t = builderView s :=
    ⟨_, exec_tick_of_pIdle hidle h.phase, rfl⟩
  have drain (n : Nat) : ∃ t, exec (.drain n) { s with turns := rest } = .next t ∧ builderView t = builderView s := by
    obtain ⟨t, hexec, hview, _⟩ := exec_drain_playerView hfifo n
    exact ⟨t, hexec, builderView_of_playerView hview⟩
  cases turn with
  | own => exact taken (fetchTurn_of_own ht (ownWork_of_time hinst)) rfl tick
  | reader => exact taken (fetchTurn_of_reader ht) rfl (drain _)
  | offer o =>
    cases o with
    | word w | text b => cases hword
    | tick => exact taken (fetchTurn_of_offer ht hinst) rfl tick
    | pop =>
      obtain ⟨t, hexec, hview⟩ := exec_pop_playerView hfifo
      exact taken (fetchTurn_of_offer ht rfl) rfl ⟨t, hexec, builderView_of_playerView hview⟩
    | drain n => exact taken (fetchTurn_of_offer ht rfl) rfl (drain n)
    | reset => exact absurd (ht ▸ List.mem_cons_self) h.sound.noReset

/-! ## The words -/

/-- Bit 8 and the byte of a text-port word can be read back from it (R91). -/
theorem byteWord_inj {b c : Byte} (h : 0#1 ++ b = 0#1 ++ c) : b = c :=
  Instr.byteWord.inj (by rw [← decodeTxw9_byteWord, h, decodeTxw9_byteWord])

theorem byteWord_ne_endWord (b d : Byte) : 0#1 ++ b ≠ 1#1 ++ d := fun h =>
  Instr.noConfusion ((decodeTxw9_byteWord b).symm.trans (h ▸ decodeTxw9_endWord d))

/-- The two ways in which WRITER offers a word. -/
theorem turn_of_txWord {turn : Turn} {w : BitVec 9} (h : txWord turn = some w) :
    turn = .offer (.word w) ∨ ∃ b, turn = .offer (.text b) ∧ w = 0#1 ++ b := by
  cases turn with
  | own | reader => cases h
  | offer o =>
    cases o with
    | word v => exact .inl (by rw [Option.some.inj h])
    | text b => exact .inr ⟨b, rfl, (Option.some.inj h).symm⟩
    | tick | pop | drain n | reset => cases h

@[simp] theorem writeBegun_trace (s : State) : (writeBegun s).trace = s.trace := by unfold writeBegun; split <;> rfl

@[simp] theorem byteOp_trace (k : TextClass) (s : State) : (byteOp k s).trace = s.trace := by
  cases k with
  | letter k => exact letterOp_trace s k
  | space => exact spaceOp_trace s
  | other => rfl

/-- Outside a play no word waits (R162). -/
theorem mustWait_word (hphase : s.phase ≠ .play) (w : BitVec 9) : mustWait (.word w) s = false := by
  simp [mustWait, txReady, hphase]

theorem mustWait_text (hphase : s.phase ≠ .play) (b : Byte) : mustWait (.text b) s = false := by
  simp [mustWait, txReady, hphase]

/-- The BYTE word of `b`, offered as the word or as its TEXT8 value, does with `a` what the function does (R169). -/
theorem Writing.byte_turn (h : Writing s a) (ha : WellBuilt a) {turn : Turn} {rest : List Turn} {b : Byte}
    (ht : s.turns = turn :: rest) (hword : txWord turn = some (0#1 ++ b)) :
    ∃ t, step s = .next t ∧ Writing t (buildByte a b) ∧ t.turns = rest ∧ t.trace = s.trace := by
  have hbegun : Builds (writeBegun { s with turns := rest }) a := builds_writeBegun_of_view (s := s) rfl h.builds
  have hbuilt := hbegun.byteOp ha.fits b
  have hexec : exec (.byteWord b) { s with turns := rest } =
      .next (byteOp (classify b) (writeBegun { s with turns := rest })) := by
    rw [exec_byteWord, textTransaction_eq (s := { s with turns := rest }) h.phase]
  obtain ⟨e, i, hf, hd, hi⟩ : ∃ e i, fetchTurn s = .ok (e, { s with turns := rest }) ∧ decode e = .ok i ∧
      exec i { s with turns := rest } = exec (.byteWord b) { s with turns := rest } := by
    rcases turn_of_txWord hword with rfl | ⟨c, rfl, hc⟩
    · exact ⟨_, _, fetchTurn_of_offer ht (mustWait_word h.phase _), congrArg Except.ok (decodeTxw9_byteWord b), rfl⟩
    · obtain rfl := byteWord_inj hc
      exact ⟨_, _, fetchTurn_of_offer ht (mustWait_text h.phase _), rfl, (byteWordIsADispatch b _).symm⟩
  obtain ⟨hstep, hturns⟩ := h.sound.step_of_taken hf hd (hi.trans hexec)
  refine ⟨_, hstep, ?_, hturns, by simp⟩
  exact
    { inv := everyStepKeepsTheInvariants _ _ h.inv hstep
      sound := (h.sound.next hstep).1
      phase := by simp [hbuilt.phase]
      builds := by rw [writeBegun_of_build hbuilt.phase]; exact hbuilt }

/-- The schedule comes to END with the text built, whatever happens between the words. -/
theorem Writing.reaches_end {turns : List Turn} {text : List Byte} {d : Byte} (h : Writing s a) (ha : WellBuilt a)
    (hs : s.turns = turns) (hwords : turns.filterMap txWord = (text.map fun b => 0#1 ++ b) ++ [1#1 ++ d]) :
    ∃ t turn rest, Reaches s t ∧ Writing t (text.foldl buildByte a) ∧ t.turns = turn :: rest ∧
      txWord turn = some (1#1 ++ d) ∧ rest.filterMap txWord = [] ∧ t.trace = s.trace := by
  induction turns generalizing s a text with
  | nil => simp at hwords
  | cons turn rest ih =>
    cases hword : txWord turn with
    | none =>
      rw [List.filterMap_cons_none hword] at hwords
      obtain ⟨t, hstep, ht, hturns, htrace⟩ := h.other_turn hs hword
      obtain ⟨u, last, rest', htu, hu, hrest, hlast, hnone, hutrace⟩ := ih ht ha hturns hwords
      exact ⟨u, last, rest', .head hstep htu, hu, hrest, hlast, hnone, hutrace.trans htrace⟩
    | some w =>
      rw [List.filterMap_cons_some hword] at hwords
      cases text with
      | nil =>
        obtain ⟨rfl, hnone⟩ := List.cons.inj hwords
        exact ⟨s, turn, rest, .refl s, h, hs, hword, hnone, rfl⟩
      | cons b text =>
        obtain ⟨rfl, hmore⟩ : w = 0#1 ++ b ∧ rest.filterMap txWord = (text.map fun b => 0#1 ++ b) ++ [1#1 ++ d] :=
          List.cons.inj hwords
        obtain ⟨t, hstep, ht, hturns, htrace⟩ := h.byte_turn ha hs hword
        obtain ⟨u, last, rest', htu, hu, hrest, hlast, hnone, hutrace⟩ := ih ht (ha.buildByte b) hturns hmore
        exact ⟨u, last, rest', .head hstep htu, hu, hrest, hlast, hnone, hutrace.trans htrace⟩

/-! ## END and the play -/

theorem WellBuilt.cut_length (ha : WellBuilt a) : a.cut.length = a.bd := List.length_take_of_le ha.bd_le

theorem WellBuilt.cut_eq_nil_iff (ha : WellBuilt a) : a.cut = [] ↔ a.bd = 0 := by
  rw [← List.length_eq_zero_iff, ha.cut_length]

/-- The block at the first fetch of the sequence `cs`. -/
structure BeginsToPlay (s : State) (cs : List Code) : Prop where
  phase : s.phase = .play
  pState : s.pState = .pFetch
  rdIdx : s.rdIdx = 0
  now : s.now = 0
  seqLen : s.seqLen.toNat = cs.length
  codes : ∀ k, k < cs.length → memRead s.seqMem k = cs[k]?

/-- The entries that END leaves are the cut's codes. -/
theorem Builds.codes_cut (h : Builds s a) (ha : WellBuilt a) {k : Nat} (hk : k < a.cut.length) :
    memRead s.seqMem k = a.cut[k]? := by
  have hk' := hk
  rw [ha.cut_length] at hk'
  rw [h.codes k (Nat.lt_of_lt_of_le hk' ha.bd_le)]
  exact (List.getElem?_take_of_lt hk').symm

/-- END cuts the sequence at the boundary; it completes an empty one, and any other it starts to play (R168). -/
theorem Builds.endOp_cases (h : Builds s a) (ha : WellBuilt a) :
    (a.cut = [] ∧ (endOp s).phase = .idle ∧ (endOp s).trace = s.trace ++ [⟨0, .done⟩]) ∨
      (a.cut ≠ [] ∧ BeginsToPlay (endOp s) a.cut ∧ (endOp s).trace = s.trace) := by
  have hzero : a.cut = [] ↔ s.boundary = 0 := by
    rw [ha.cut_eq_nil_iff, ← h.boundary]
    exact ⟨fun h0 => BitVec.eq_of_toNat_eq h0, fun h0 => by rw [h0]; rfl⟩
  rcases Machine.endOp_cases s with ⟨hb, heq⟩ | ⟨hb, heq⟩
  · exact .inl ⟨hzero.mpr hb, by rw [heq]; rfl, by rw [heq]; rfl⟩
  · refine .inr ⟨mt hzero.mp hb, ?_, by rw [heq]⟩
    rw [heq]
    exact ⟨rfl, rfl, rfl, rfl, h.boundary.trans ha.cut_length.symm, fun k => h.codes_cut ha⟩

/-- END and what follows: the block is idle again, having recorded the play of what was built. -/
theorem Writing.completes (h : Writing s a) (ha : WellBuilt a) {turn : Turn} {rest : List Turn} {d : Byte}
    (ht : s.turns = turn :: rest) (hword : txWord turn = some (1#1 ++ d)) :
    ∃ t, Reaches s t ∧ t.phase = .idle ∧ t.turns <:+ rest ∧
      t.trace = s.trace ++ (if a.cut = [] then [⟨0, .done⟩] else (playTrace 0 a.cut).1) := by
  have hturn : turn = .offer (.word (1#1 ++ d)) := by
    rcases turn_of_txWord hword with hturn | ⟨b, _, hb⟩
    · exact hturn
    · exact absurd hb.symm (byteWord_ne_endWord b d)
  subst hturn
  have hbegun : Builds (writeBegun { s with turns := rest }) a := builds_writeBegun_of_view (s := s) rfl h.builds
  have hexec : exec (.endWord d) { s with turns := rest } = .next (endOp (writeBegun { s with turns := rest })) := by
    rw [exec_endWord, textTransaction_eq (s := { s with turns := rest }) h.phase]
  obtain ⟨hstep, hturns⟩ := h.sound.step_of_taken
    (fetchTurn_of_offer ht (mustWait_word h.phase _)) (congrArg Except.ok (decodeTxw9_endWord d)) hexec
  rcases hbegun.endOp_cases ha with ⟨hnil, hphase, htrace⟩ | ⟨hne, hplay, htrace⟩
  · refine ⟨_, .head hstep (.refl _), hphase, by simp, ?_⟩
    rw [htrace, writeBegun_trace, if_pos hnil]
  · have hsound : Sound (endOp (writeBegun { s with turns := rest })) := (h.sound.next hstep).1
    have hle : a.cut.length ≤ 512 := (List.length_take_le' _ _).trans ha.fits
    obtain ⟨t, hreach, hphase, _, hend, _⟩ := hsound.reaches_end_of_play hne hplay.phase hplay.pState hplay.rdIdx
      hplay.seqLen hle hplay.codes
    refine ⟨t, .head hstep hreach, hphase, hturns ▸ (hsound.reaches hreach).2, ?_⟩
    rw [hend, hplay.now, htrace, writeBegun_trace, if_neg hne]

/-- Settles O41: the words build the sequence, END cuts it, and the play of the cut follows its trace. -/
theorem aWholeWriteRecordsTheTraceOfItsText : Obligations.AWholeWriteRecordsTheTraceOfItsText := by
  intro text d s hinv hidle hu hwords
  have hstart : Writing s (Built.start s.seqOvf) :=
    ⟨hinv, ⟨hinv.fifo, hu.1, hu.2⟩, by simp [hidle], by rw [writeBegun_of_idle hidle]; exact builds_beginWrite s⟩
  obtain ⟨t, turn, rest, hst, ht, hturns, hword, hnone, htrace⟩ :=
    hstart.reaches_end (wellBuilt_start s.seqOvf) rfl hwords
  obtain ⟨u, htu, hphase, hsuffix, hutrace⟩ := ht.completes (wellBuilt_buildText s.seqOvf text) hturns hword
  obtain ⟨n, hn⟩ := hst.trans htu
  have hleft : u.turns.filterMap txWord = [] := List.suffix_nil.mp (hnone ▸ hsuffix.filterMap txWord)
  refine ⟨n, u, hn, hphase, hleft, ?_⟩
  rw [build_eq_cut s.seqOvf, hutrace, htrace]
  rfl

end

end Sys2Proof.Machine
end

section
/-! PROOFS of the statements of spec/42_player.md about its single rules: the fetch (R193 to R195), the walk (R196 to R199),
the holds and their expiry (R200 to R203, R206), the NEXT transitions (R204, R205, R207). -/

namespace Sys2Proof.Machine

section
variable {s : State}

/-! ## Start and fetch -/

/-- A fetching row that selects the code read performs its operation on it. -/
theorem whenFetched_of_selected {sel : Code → Bool} {op : Code → State → State} {c : Code} (hp : s.pState = .pFetch)
    (hc : reads s c) (hsel : sel c = true) : whenFetched sel op s = .next (op c s) :=
  whenFetched_next.mpr (.inr ⟨hp, c, currentCode_of_reads hc, (if_pos hsel).symm⟩)

/-- APPEND leaves `cur_gap` alone and does not look at it. -/
theorem emitAppend_with_curGap (sym : Symbol) (g : Bool) (s : State) :
    emitAppend sym { s with curGap := g } = { emitAppend sym s with curGap := g } := by
  have hresult : appendResult { s with curGap := g } = appendResult s := rfl
  unfold emitAppend
  rw [hresult]
  cases appendResult s with
  | accepted | overflow => rfl

/-- FETCH of a word gap, by the APPEND it makes (R194). -/
theorem fetchGapOp_eq (s : State) :
    fetchGapOp s = { emitAppend .space s with curGap := true, waitCnt := 1, pState := .pWgap } :=
  congrArg (fun u : State => { u with waitCnt := 1, pState := .pWgap }) (emitAppend_with_curGap .space true s)

end

/-- Settles O15: the three conditions are the premises. -/
theorem playStartFetchesTheFirstCode : Obligations.PlayStartFetchesTheFirstCode := fun _ hphase hp hb =>
  whenEnabled_of (by simpa [hphase, hp] using hb)

/-- Settles O23: GAP selects the word gap. -/
theorem fetchOfAGapAppendsASpace : Obligations.FetchOfAGapAppendsASpace := by
  intro s hp hc _
  have hexec : exec .gap s = .next (fetchGapOp s) := whenFetched_of_selected hp hc rfl
  rw [hexec, fetchGapOp_eq, appended_eq_emitAppend]

/-- Settles O24: each of the rows selects the code read. -/
theorem fetchOfALetterCodeLoadsIt : Obligations.FetchOfALetterCodeLoadsIt := by
  intro c i s hp hc hgap hi
  rcases hi with rfl | ⟨k, rfl, rfl⟩ | rfl | rfl
  · exact whenFetched_of_selected hp hc (bne_iff_ne.mpr hgap)
  · exact (exec_code k s).trans (whenFetched_of_selected hp hc (beq_iff_eq.mpr rfl))
  · exact whenFetched_of_selected hp hc (by rw [beq_self_eq_true, Bool.true_and]; exact bne_iff_ne.mpr hgap)
  · exact exec_decodeSc16 hp hc hgap

/-! ## The walk -/

/-- The rows of format WIN3, each with the window at which it stands (R96). -/
theorem decodeWin3_row (w : BitVec 3) :
    (decodeWin3 w = .dash ∧ w = 0b111#3) ∨ (∃ x : BitVec 1, decodeWin3 w = .dot10 x ∧ w = 0b10#2 ++ x) ∨
      (decodeWin3 w = .dot110 ∧ w = 0b110#3) ∨ ∃ xx : BitVec 2, decodeWin3 w = .pad xx ∧ w = 0#1 ++ xx := by
  rcases decodeWin3_cases w with ⟨_, xx, hw, hrow⟩ | ⟨_, hw, hrow⟩ | ⟨_, ⟨x, hw, hrow⟩ | ⟨hw, hrow⟩⟩
  · exact .inr (.inr (.inr ⟨xx, hrow, hw⟩))
  · exact .inl ⟨hrow, hw⟩
  · exact .inr (.inl ⟨x, hrow, hw⟩)
  · exact .inr (.inr (.inl ⟨hrow, hw⟩))

section
variable {s : State}

/-- DASH, at its window (R197). -/
theorem exec_dash (hp : s.pState = .pWalk) (hbits : s.bitCnt.toNat < 16) (hw : window s.shreg = 0b111#3) :
    exec .dash s = .next (startElement .dash .dash dashUnits s) :=
  whenEnabled_of (atWindow_iff.mpr ⟨hp, hbits, hw⟩)

/-- DOT in both encodings, at its window (R198). -/
theorem exec_dot {i : Instr} (hp : s.pState = .pWalk) (hbits : s.bitCnt.toNat < 16)
    (hi : (∃ x : BitVec 1, i = .dot10 x ∧ window s.shreg = 0b10#2 ++ x) ∨ (i = .dot110 ∧ window s.shreg = 0b110#3)) :
    exec i s = .next (startElement .dot .dot dotUnits s) := by
  rcases hi with ⟨x, rfl, hw⟩ | ⟨rfl, hw⟩
  · exact whenEnabled_of (atWindow_iff.mpr ⟨hp, hbits, hw⟩)
  · exact whenEnabled_of (atWindow_iff.mpr ⟨hp, hbits, hw⟩)

/-- The start of an element, by the APPEND it makes after its On. -/
theorem startElement_eq (e : Elem) (sym : Symbol) (k : BitVec 2) (s : State) :
    startElement e sym k s =
      { appended sym { s with led := true, trace := s.trace ++ [⟨s.now, .on⟩] } with
        curElem := e, waitCnt := k, pState := .pOn } := by
  rw [appended_eq_emitAppend]
  rfl

end

/-- Settles O26: past the last position the window's row is not enabled. -/
theorem walkEndsAtSixteenBits : Obligations.WalkEndsAtSixteenBits := by
  intro s hp hbits
  refine ⟨whenEnabled_of ?_, ?_, exec_windowRow_disabled (decodeWin3_row _) (.inr (.inl hbits.ge))⟩
  · rw [Bool.and_eq_true, beq_iff_eq, beq_iff_eq]
    exact ⟨hp, BitVec.eq_of_toNat_eq hbits⟩
  · rw [ownWork_of_walk hp, if_neg hbits.not_lt]

/-- Settles O27: the row starts the element; the bound is that of the zeros shifted in. -/
theorem windowOfThreeOnesStartsADash : Obligations.WindowOfThreeOnesStartsADash := by
  intro s hp hbits hw _
  refine ⟨(exec_dash hp hbits hw).trans (congrArg _ (startElement_eq _ _ _ s)), fun c hc => ?_⟩
  rw [hc] at hw
  exact Nat.le_of_add_le_add_right (le_of_window_dash hw)

/-- Settles O28: both rows start the same element. -/
theorem windowOfASingleOneStartsADot : Obligations.WindowOfASingleOneStartsADot := fun _ s hp hbits _ hi =>
  (exec_dot hp hbits hi).trans (congrArg _ (startElement_eq _ _ _ s))

/-- Settles O29: the advance by one position stays in `P_WALK`. -/
theorem windowOfAZeroIsPassed : Obligations.WindowOfAZeroIsPassed := by
  intro xx s hp hbits hw
  have hadvance : advanceBits 1 s = { s with shreg := s.shreg <<< 1, bitCnt := s.bitCnt + 1 } := by
    unfold advanceBits
    rw [← hp]
    rfl
  exact hadvance ▸ whenEnabled_of (atWindow_iff.mpr ⟨hp, hbits, hw⟩)

/-! ## The holds -/

section
variable {s : State}

theorem exec_tick_of_holding (hh : s.pState.holding = true) : exec .tick s = .next (tickOp s) :=
  whenEnabled_of (tickEnabled_iff.mpr (.inl hh))

theorem exec_tick_of_more (hh : s.pState.holding = true) (hw : 1 < s.waitCnt.toNat) :
    exec .tick s = .next { s with now := s.now + 1, waitCnt := s.waitCnt - 1 } :=
  (exec_tick_of_holding hh).trans (congrArg _ (tickOp_of_more hh hw))

theorem exec_tick_of_last (hh : s.pState.holding = true) (hw : s.waitCnt.toNat = 1) :
    exec .tick s = .next (expiryOp (holdEnded s)) :=
  (exec_tick_of_holding hh).trans (congrArg _ (tickOp_of_last hh hw.le))

/-! ### The expiry rule of each holding state, and its row on an emptied counter -/

theorem expiryOp_of_pOn (hp : s.pState = .pOn) : expiryOp s = onExpiryOp s := by rw [expiryOp, hp]

theorem expiryOp_of_pOff (hp : s.pState = .pOff) : expiryOp s = offExpiryOp s := by rw [expiryOp, hp]

theorem expiryOp_of_pWgap (hp : s.pState = .pWgap) : expiryOp s = toNextOp s := by rw [expiryOp, hp]

theorem expiryOp_of_pLgap (hp : s.pState = .pLgap) : expiryOp s = nextCodeOp s := by rw [expiryOp, hp]

theorem expired {p : PState} (hp : s.pState = p) (hw : s.waitCnt = 0) : (s.pState == p && s.waitCnt == 0) = true := by
  simp [hp, hw]

theorem exec_onExpiry (hp : s.pState = .pOn) (hw : s.waitCnt = 0) : exec .onExpiry s = .next (onExpiryOp s) :=
  whenEnabled_of (expired hp hw)

theorem exec_offExpiry (hp : s.pState = .pOff) (hw : s.waitCnt = 0) : exec .offExpiry s = .next (offExpiryOp s) :=
  whenEnabled_of (expired hp hw)

theorem exec_wgapExpiry (hp : s.pState = .pWgap) (hw : s.waitCnt = 0) : exec .wgapExpiry s = .next (toNextOp s) :=
  whenEnabled_of (expired hp hw)

theorem exec_lgapExpiry (hp : s.pState = .pLgap) (hw : s.waitCnt = 0) : exec .lgapExpiry s = .next (nextCodeOp s) :=
  whenEnabled_of (expired hp hw)

end

/-- Settles O30: the TICK counts down, or performs the expiry rule of the state it stands in. -/
theorem tickCountsTheHold : Obligations.TickCountsTheHold := by
  refine ⟨fun s => exec_tick_of_more, ?_, fun s hphase hp => exec_tick_of_pIdle hp hphase⟩
  intro s hw t
  have last {p : PState} (hp : s.pState = p) (hh : p.holding = true) : exec .tick s = .next (expiryOp t) :=
    exec_tick_of_last (hp ▸ hh) hw
  have same {p : PState} (hp : s.pState = p) : t.pState = p := hp
  refine ⟨fun hp => ?_, fun hp => ?_, fun hp => ?_, fun hp => ?_⟩
  · rw [last hp rfl, expiryOp_of_pOn (same hp), exec_onExpiry (same hp) rfl]
  · rw [last hp rfl, expiryOp_of_pOff (same hp), exec_offExpiry (same hp) rfl]
  · rw [last hp rfl, expiryOp_of_pWgap (same hp), exec_wgapExpiry (same hp) rfl]
  · rw [last hp rfl, expiryOp_of_pLgap (same hp), exec_lgapExpiry (same hp) rfl]

/-- The expiry of `P_ON`, field by field (R201). -/
theorem onExpiryOp_eq (s : State) : onExpiryOp s =
    { s with led := false, trace := s.trace ++ [⟨s.now, .off⟩], waitCnt := 1, pState := .pOff } := by
  unfold onExpiryOp hold emitOff emit
  rfl

theorem onExpiryOp_waited (k : Nat) (s : State) : onExpiryOp (waited k s) =
    { s with
      now := s.now + k, led := false, trace := s.trace ++ [⟨s.now + k, .off⟩], waitCnt := 1, pState := .pOff } := by
  rw [onExpiryOp_eq, waited]

/-- As many TICKs as `P_ON` has to wait end it with Off at that time (R200, R201). -/
theorem execAll_ticks_of_pOn {k : Nat} {s : State} (hp : s.pState = .pOn) (hk : s.waitCnt.toNat = k) (hpos : 0 < k) :
    execAll (List.replicate k .tick) s = .next (onExpiryOp (waited k s)) := by
  have hh : s.pState.holding = true := hp ▸ rfl
  induction k, hpos using Nat.le_induction generalizing s with
  | base =>
    have hexpiry : expiryOp (holdEnded s) = onExpiryOp (holdEnded s) := expiryOp_of_pOn hp
    rw [List.replicate_one, execAll, exec_tick_of_last hh hk, hexpiry]
    rfl
  | succ k hpos ih =>
    rw [List.replicate_succ, execAll, exec_tick_of_more hh (by omega)]
    have hrest := ih (s := { s with now := s.now + 1, waitCnt := s.waitCnt - 1 }) hp (by simp only; bv_omega) hh
    rw [waited] at hrest ⊢
    rw [Nat.add_comm k 1, ← Nat.add_assoc]
    exact hrest

/-- Settles O31: the hold that the start of an element loads is the hold that ends with its Off. -/
theorem elementEndsWithOffAndAGap : Obligations.ElementEndsWithOffAndAGap := by
  refine ⟨fun s hp hw => ?_, fun s hp hw => ?_, fun i k sym s hp hbits hi => ?_⟩
  · rw [exec_onExpiry hp hw, onExpiryOp_eq]
  · rw [execAll_ticks_of_pOn hp rfl hw, onExpiryOp_waited]
  have hold (e : Elem) (w : BitVec 2) (hexec : exec i s = .next (startElement e sym w s)) (hk : w.toNat = k)
      (hpos : 0 < k) : execAll (i :: List.replicate k .tick) s = .next (onExpiryOp (waited k (startElement e sym w s))) := by
    rw [execAll, hexec]
    exact execAll_ticks_of_pOn rfl hk hpos
  rcases hi with ⟨rfl, hw, rfl, rfl⟩ | ⟨rfl, rfl, hi⟩
  · exact ⟨_, hold _ _ (exec_dash hp hbits hw) rfl (by decide), rfl, rfl, by simp, by simp⟩
  · exact ⟨_, hold _ _ (exec_dot hp hbits hi) rfl one_pos, rfl, rfl, by simp, by simp⟩

/-- Settles O32: the advance by `cur_elem`, which under the invariants is the element that the window starts. -/
theorem gapEndsWithTheAdvance : Obligations.GapEndsWithTheAdvance := by
  refine ⟨fun s hp hw => ?_, fun s h hp => ?_⟩
  · rw [exec_offExpiry hp hw, offExpiryOp]
    split
    · rename_i helem
      rw [show advance s.curElem = 3 from congrArg advance helem]
      rfl
    · rename_i helem
      rw [show advance s.curElem = 1 from congrArg advance helem]
      rfl
  · obtain ⟨c, _, hc⟩ := h.player.walk (by rw [hp]; rfl)
    obtain ⟨helem, hbits⟩ := h.player.element (by rw [hp]; rfl)
    rw [hc] at helem
    exact bitCnt_add_advance_le helem hbits

/-- Settles O33: the two expiry rows on their emptied counters. -/
theorem gapExpiriesMoveOn : Obligations.GapExpiriesMoveOn :=
  ⟨fun _ => exec_wgapExpiry, fun _ => exec_lgapExpiry⟩

/-! ## NEXT -/

section
variable {s : State} (hp : s.pState = .pNext)
include hp

theorem exec_nextLetter (hlast : s.rdIdx ≠ s.seqLen - 1) (hgap : s.curGap = false) :
    exec .nextLetter s = .next (nextLetterOp s) :=
  whenEnabled_of (by simpa [hp, hgap, lastCode] using hlast)

theorem exec_nextGap (hlast : s.rdIdx ≠ s.seqLen - 1) (hgap : s.curGap = true) :
    exec .nextGap s = .next (nextCodeOp s) :=
  whenEnabled_of (by simpa [hp, hgap, lastCode] using hlast)

theorem exec_nextLast (hlast : s.rdIdx = s.seqLen - 1) : exec .nextLast s = .next (nextLastOp s) :=
  whenEnabled_of (by simp [hp, lastCode_iff.mpr hlast])

end

/-- Settles O34: which of the two rows it is depends on `cur_gap`. -/
theorem nextAfterACodeWithASuccessor : Obligations.NextAfterACodeWithASuccessor := by
  intro s hp hlast _
  rw [appended_eq_emitAppend]
  exact ⟨exec_nextLetter hp hlast, exec_nextGap hp hlast⟩

/-- Settles O35: the newline's event comes before Done, at the same instant. -/
theorem nextAfterTheLastCodeCompletes : Obligations.NextAfterTheLastCodeCompletes := by
  intro s hp hlast _
  rw [exec_nextLast hp hlast, appended_eq_emitAppend]
  have htrace := nextLastOp_trace s
  rw [← htrace]
  rfl

end Sys2Proof.Machine
end

section
/-! PROOFS of the statements of spec/42_player.md about a whole play: its trace, its duration and its symbols (R209, R210,
R214, R217), when time passes in it (R192), what ends it (R215), and that it does not depend on what the FIFO holds
(R208). -/

namespace Sys2Proof.Machine

/-! ## The trace of a code and of a sequence -/

/-- Settles O38: the walk that no schedule changes, started in the given state. -/
theorem playingACodeEmitsItsElements : Obligations.PlayingACodeEmitsItsElements := by
  intro c s hp hphase hc hgap hfifo ⟨hbench, hreset⟩
  have hsound : Sound s := ⟨hfifo, hbench, hreset⟩
  obtain ⟨w, hw, hnext, hend, hcur, hidx, hrec⟩ := plays_letterCode (v := playerView s) hphase hp hc hgap
  obtain ⟨t, hreach, rfl⟩ := hw s rfl hsound
  obtain ⟨ht, taken, htaken⟩ := hsound.reaches hreach
  obtain ⟨n, hn⟩ := hreach
  exact ⟨n, t, hn, hnext, hrec.phase.trans hphase, hend, hcur, hidx, hrec.seqLen, hrec.seqMem, ht.fifo, ht.bench,
    ⟨taken, htaken.symm⟩, hrec.trace, hrec.now⟩

/-- Settles O39: the play that no schedule changes, with what is left of the schedule and the FIFO. -/
theorem playingASequenceRecordsItsTrace : Obligations.PlayingASequenceRecordsItsTrace := by
  intro cs s hne hle hphase hp hidx hlen hcodes hfifo ⟨hbench, hreset⟩
  have hsound : Sound s := ⟨hfifo, hbench, hreset⟩
  obtain ⟨t, hreach, htphase, htp, htrace, hnow⟩ := hsound.reaches_end_of_play hne hphase hp hidx hlen hle hcodes
  obtain ⟨ht, taken, htaken⟩ := hsound.reaches hreach
  obtain ⟨n, hn⟩ := hreach
  exact ⟨n, t, hn, htphase, htp, ht.fifo, ht.bench, ⟨taken, htaken.symm⟩, htrace, hnow⟩

/-! ## Duration and transcript -/

/-! ### One code -/

/-- A dot takes two base units, a dash four (R209). -/
theorem elementsTrace_end (t : Nat) (es : List Elem) :
    (elementsTrace t es).2 = t + 2 * es.count .dot + 4 * es.count .dash := by
  induction es generalizing t with
  | nil => rfl
  | cons e es ih =>
    rw [elementsTrace, ih]
    cases e with
    | dot | dash =>
      simp [onUnits]
      omega

theorem symbolsOf_append (tr tr' : List Stamped) : symbolsOf (tr ++ tr') = symbolsOf tr ++ symbolsOf tr' :=
  List.filterMap_append

theorem symbolsOf_elementsTrace (t : Nat) (es : List Elem) : symbolsOf (elementsTrace t es).1 = es.map symbolOf := by
  induction es generalizing t with
  | nil => rfl
  | cons e es ih =>
    rw [elementsTrace, symbolsOf_append, ih]
    rfl

/-- The symbols of one code (R194, R197, R198). -/
theorem symbolsOf_codeTrace (t : Nat) (c : Code) :
    symbolsOf (codeTrace t c).1 = if c = gapCode then [.space] else (elements c).map symbolOf := by
  unfold codeTrace
  split
  · rfl
  · exact symbolsOf_elementsTrace t _

/-! ### The sequence -/

theorem symbolsOf_playTrace (t : Nat) (cs : List Code) : symbolsOf (playTrace t cs).1 = transcript cs := by
  induction t, cs using playTrace.induct with
  | case1 t => rfl
  | case2 t c =>
    simp only [playTrace, symbolsOf_append, symbolsOf_codeTrace, transcript]
    rfl
  | case3 t d cs r ih =>
    simp only [playTrace, symbolsOf_append, symbolsOf_codeTrace, transcript, if_true]
    rw [ih]
  | case4 t c d cs r hc ih =>
    simp only [playTrace, symbolsOf_append, symbolsOf_codeTrace, transcript, if_neg hc]
    rw [ih]
    rfl

/-- A word gap at the head of a sequence adds its unit. -/
theorem playUnits_gap_cons (cs : List Code) : playUnits (gapCode :: cs) = 1 + playUnits cs := by
  simp [playUnits]
  omega

/-- A letter before another one adds its elements and the gap between the two (R210). -/
theorem playUnits_letter_cons {c : Code} {cs : List Code} (hc : c ≠ gapCode) (hcs : cs.filter (· != gapCode) ≠ []) :
    playUnits (c :: cs) = 2 * (elements c).count .dot + 4 * (elements c).count .dash + 1 + playUnits cs := by
  have hpos := List.length_pos_iff.mpr hcs
  simp [playUnits, hc]
  omega

theorem playTrace_end (t : Nat) {cs : List Code} {c : Code} (hlast : cs.getLast? = some c) (hc : c ≠ gapCode) :
    (playTrace t cs).2 = t + playUnits cs := by
  induction t, cs using playTrace.induct with
  | case1 t => cases hlast
  | case2 t d =>
    obtain rfl : d = c := Option.some.inj hlast
    simp [playTrace, codeTrace, hc, elementsTrace_end, playUnits]
    omega
  | case3 t d cs r ih =>
    rw [List.getLast?_cons_cons] at hlast
    simp only [playTrace, if_true]
    rw [ih hlast, playUnits_gap_cons, ← Nat.add_assoc]
    rfl
  | case4 t b d cs r hb ih =>
    rw [List.getLast?_cons_cons] at hlast
    have hletter : (d :: cs).filter (· != gapCode) ≠ [] :=
      List.ne_nil_of_mem (List.mem_filter.mpr ⟨List.mem_of_getLast? hlast, by simpa using hc⟩)
    have hr : r.2 = t + 2 * (elements b).count .dot + 4 * (elements b).count .dash := by
      simp only [r, codeTrace, if_neg hb, elementsTrace_end]
    simp only [playTrace, if_neg hb]
    rw [ih hlast, playUnits_letter_cons hb hletter, hr]
    omega

/-- Settles O40: code by code, with the gaps between them. -/
theorem playDurationAndTranscript : Obligations.PlayDurationAndTranscript := fun t cs _ hlast hc =>
  ⟨playTrace_end t hlast hc, symbolsOf_playTrace t cs⟩

/-! ## When time passes, and what ends a play -/

/-- Only TICK and END touch the observer's clock, and neither is performed while a play is at an instantaneous state. -/
theorem exec_now_of_instantaneous {s t : State} {i : Instr} (hphase : s.phase = .play)
    (hinst : s.pState.instantaneous = true) (h : exec i s = .next t) : t.now = s.now := by
  cases exec_moves i h with
  | tick henabled =>
    rw [tickEnabled_iff, holding_of_instantaneous hinst] at henabled
    simp [hphase] at henabled
  | finish _ hp | letter _ _ _ hp | space _ _ hp | ignore _ hp => exact absurd hphase hp
  | stay | overflow | drained | lookup | reset => rfl
  | begin | play | gap | code | dash | dot | pad | walkEnd | onExpiry | offExpiry | wgapExpiry | lgapExpiry
  | nextLetter | nextGap | nextLast => simp
  | append | drop | pop => simp

/-- Settles O36: under the invariants an instantaneous state is one of a play, and the fetch leaves the clock alone. -/
theorem noTimePassesInAnInstantaneousState : Obligations.NoTimePassesInAnInstantaneousState := by
  intro s t hinv hinst hstep
  have hphase : s.phase = .play := hinv.play_of_active fun hidle => by rw [hidle] at hinst; cases hinst
  obtain ⟨e, u, i, hf, _, hexec⟩ := step_next hstep
  have hu := fetch_frame hf
  rw [hu] at hexec
  exact exec_now_of_instantaneous (s := { s with turns := u.turns, bench := u.bench }) hphase hinst hexec

/-- Settles O53: every other move of a play keeps the phase. -/
theorem onlyTheEndOrResetLeavesThePlay : Obligations.OnlyTheEndOrResetLeavesThePlay := by
  intro i s t hphase h hne
  cases exec_moves i h with
  | nextLast => exact .inl rfl
  | reset => exact .inr rfl
  | begin hidle => rw [hidle] at hphase; cases hphase
  | finish _ hp | letter _ _ _ hp | space _ _ hp | ignore _ hp => exact absurd hphase hp
  | stay | overflow | drained | lookup => exact absurd hphase hne
  | play | gap | code | dash | dot | pad | walkEnd | tick | onExpiry | offExpiry | wgapExpiry | lgapExpiry
  | nextLetter | nextGap => exact absurd (by simpa using hphase) hne
  | append | drop | pop => exact absurd (by simpa using hphase) hne

/-! ## The FIFO and the rest -/

/-- What `op` leaves outside the FIFO does not depend on what the FIFO holds. -/
def FifoBlind (op : State → State) : Prop :=
  ∀ s s', withoutFifo s = withoutFifo s' → withoutFifo (op s) = withoutFifo (op s')

/-- The same of an operation that can stop. -/
def FifoBlindStep (f : State → Host.Outcome State Fault Refusal) : Prop :=
  ∀ s s' t, withoutFifo s = withoutFifo s' → f s = .next t → ∃ t', f s' = .next t' ∧ withoutFifo t = withoutFifo t'

section
variable {op op' : State → State}

/-- An operation that neither reads nor writes the FIFO can as well be performed on the rest alone. -/
theorem fifoBlind_of_commutes (h : ∀ s, withoutFifo (op s) = op (withoutFifo s)) : FifoBlind op := fun s s' hs => by
  rw [h, h, hs]

theorem FifoBlind.comp (h : FifoBlind op) (h' : FifoBlind op') : FifoBlind (op ∘ op') := fun s s' hs =>
  h _ _ (h' s s' hs)

theorem fifoBlind_id : FifoBlind fun s => s := fun _ _ hs => hs

/-- A case split on what lies outside the FIFO. -/
theorem FifoBlind.ite {c : State → Prop} [DecidablePred c] (hc : ∀ s, c (withoutFifo s) ↔ c s) (h : FifoBlind op)
    (h' : FifoBlind op') : FifoBlind fun s => if c s then op s else op' s := fun s s' hs => by
  have hsame : c s ↔ c s' := by rw [← hc s, hs, hc s']
  by_cases hs' : c s'
  · simpa only [hsame, if_pos hs'] using h s s' hs
  · simpa only [hsame, if_neg hs'] using h' s s' hs

/-! ### The shared operations -/

theorem fifoBlind_emitAppend (sym : Symbol) : FifoBlind (emitAppend sym) := by
  have h (s : State) : withoutFifo (emitAppend sym s) = emit (.append sym) (withoutFifo s) := by
    rcases emitAppend_cases sym s with ⟨_, heq⟩ | ⟨_, heq⟩
    · rw [heq]; rfl
    · rw [heq]; rfl
  intro s s' hs
  rw [h, h, hs]

theorem fifoBlind_beginWrite : FifoBlind beginWrite := fifoBlind_of_commutes fun _ => rfl

theorem fifoBlind_letterOp (k : Letter) : FifoBlind (letterOp k) :=
  .ite (fun _ => .rfl) (fifoBlind_of_commutes fun _ => rfl) (fifoBlind_of_commutes fun _ => rfl)

theorem fifoBlind_spaceOp : FifoBlind spaceOp :=
  .ite (fun _ => .rfl) fifoBlind_id <|
    .ite (fun _ => .rfl) (fifoBlind_of_commutes fun _ => rfl) (fifoBlind_of_commutes fun _ => rfl)

theorem fifoBlind_byteOp (k : TextClass) : FifoBlind (byteOp k) := by
  cases k with
  | letter k => exact fifoBlind_letterOp k
  | space => exact fifoBlind_spaceOp
  | other => exact fifoBlind_id

theorem fifoBlind_endOp : FifoBlind endOp :=
  .ite (fun _ => .rfl) (fifoBlind_of_commutes fun _ => rfl) (fifoBlind_of_commutes fun _ => rfl)

theorem fifoBlind_fetchLetterOp (c : Code) : FifoBlind (fetchLetterOp c) := fifoBlind_of_commutes fun _ => rfl

theorem fifoBlind_fetchGapOp : FifoBlind fetchGapOp :=
  have hbegin : FifoBlind fun s => { s with curGap := true } := fifoBlind_of_commutes fun _ => rfl
  have hhold : FifoBlind fun s => { hold wordGapUnits s with pState := .pWgap } := fifoBlind_of_commutes fun _ => rfl
  hhold.comp ((fifoBlind_emitAppend .space).comp hbegin)

theorem fifoBlind_startElement (e : Elem) (sym : Symbol) (k : BitVec 2) : FifoBlind (startElement e sym k) :=
  have hon : FifoBlind emitOn := fifoBlind_of_commutes fun _ => rfl
  have hhold : FifoBlind fun s => { hold k { s with curElem := e } with pState := .pOn } :=
    fifoBlind_of_commutes fun _ => rfl
  hhold.comp ((fifoBlind_emitAppend sym).comp hon)

theorem fifoBlind_nextLetterOp : FifoBlind nextLetterOp :=
  have hhold : FifoBlind fun s => { hold letterGapUnits s with pState := .pLgap } := fifoBlind_of_commutes fun _ => rfl
  hhold.comp (fifoBlind_emitAppend .space)

theorem fifoBlind_nextLastOp : FifoBlind nextLastOp :=
  have hend : FifoBlind fun s => emit .done { s with pState := .pIdle, phase := .idle } :=
    fifoBlind_of_commutes fun _ => rfl
  hend.comp (fifoBlind_emitAppend .newline)

theorem fifoBlind_expiryOp : FifoBlind expiryOp := fifoBlind_of_commutes fun s => by
  have hp : (withoutFifo s).pState = s.pState := rfl
  unfold expiryOp
  rw [hp]
  cases s.pState with
  | pIdle | pFetch | pWalk | pOn | pOff | pWgap | pNext | pLgap => rfl

theorem fifoBlind_tickOp : FifoBlind tickOp :=
  have hlast : FifoBlind holdEnded := fifoBlind_of_commutes fun _ => rfl
  .ite (fun _ => .rfl)
    (.ite (fun _ => .rfl) (fifoBlind_of_commutes fun _ => rfl) (fifoBlind_expiryOp.comp hlast))
    (fifoBlind_of_commutes fun _ => rfl)

theorem fifoBlind_textTransaction (h : FifoBlind op) : FifoBlind (textTransaction op) := fun s s' hs => by
  have hphase : s.phase = s'.phase := (congrArg State.phase hs :)
  cases hp : s.phase with
  | idle =>
    rw [textTransaction_idle hp, textTransaction_idle (hphase ▸ hp)]
    exact h _ _ (fifoBlind_beginWrite s s' hs)
  | build =>
    rw [textTransaction_build hp, textTransaction_build (hphase ▸ hp)]
    exact h s s' hs
  | play =>
    rw [textTransaction_play hp, textTransaction_play (hphase ▸ hp)]
    exact hs

/-! ### The instructions -/

theorem fifoBlindStep_next (h : FifoBlind op) : FifoBlindStep fun s => .next (op s) := by
  rintro s s' _ hs ⟨⟩
  exact ⟨_, rfl, h s s' hs⟩

/-- The condition of an operation lies outside the FIFO. -/
theorem fifoBlindStep_whenEnabled {b : State → Bool} (hb : ∀ s, b (withoutFifo s) = b s) (h : FifoBlind op) :
    FifoBlindStep fun s => whenEnabled (b s) op s :=
  fifoBlindStep_next (.ite (fun s => by rw [hb]) h fifoBlind_id)

/-- So does the code that the player fetches. -/
theorem fifoBlindStep_whenFetched {sel : Code → Bool} {op : Code → State → State} (h : ∀ c, FifoBlind (op c)) :
    FifoBlindStep (whenFetched sel op) := fun s s' t hs ht => by
  have hp : s.pState = s'.pState := (congrArg State.pState hs :)
  have hcode : currentCode s = currentCode s' := (congrArg currentCode hs :)
  rcases whenFetched_next.mp ht with ⟨hne, rfl⟩ | ⟨hfetch, c, hc, rfl⟩
  · exact ⟨s', whenFetched_elsewhere (hp ▸ hne), hs⟩
  · refine ⟨_, whenFetched_next.mpr (.inr ⟨hp ▸ hfetch, c, hcode ▸ hc, rfl⟩), ?_⟩
    split
    · exact h c s s' hs
    · exact hs

theorem fifoBlindStep_text (h : FifoBlind op) : FifoBlindStep fun s => .next (textTransaction op s) :=
  fifoBlindStep_next (fifoBlind_textTransaction h)

end

/-- Every instruction but the reader's and the two halves of APPEND (R208). -/
theorem fifoBlindStep_exec (i : Instr) (hpop : ¬ pops i) (happend : ∀ b, i ≠ .append b ∧ i ≠ .appendDrop b) :
    FifoBlindStep (exec i) := by
  induction i using Instr_byLetter with
  | upper k => rw [funext (exec_upper k)]; exact fifoBlindStep_text (fifoBlind_letterOp k)
  | lower k => rw [funext (exec_lower k)]; exact fifoBlindStep_text (fifoBlind_letterOp k)
  | code k =>
    rw [funext (exec_code k)]
    exact fifoBlindStep_whenFetched fifoBlind_fetchLetterOp
  | byteWord d => exact fifoBlindStep_text (fifoBlind_byteOp _)
  | endWord d => exact fifoBlindStep_text fifoBlind_endOp
  | space => exact fifoBlindStep_text fifoBlind_spaceOp
  | ignore b => exact fifoBlindStep_text fifoBlind_id
  | gap => exact fifoBlindStep_whenFetched fun _ => fifoBlind_fetchGapOp
  | codeOther c => exact fifoBlindStep_whenFetched fifoBlind_fetchLetterOp
  | fetchLetter => exact fifoBlindStep_whenFetched fifoBlind_fetchLetterOp
  | dash => exact fifoBlindStep_whenEnabled (fun _ => rfl) (fifoBlind_startElement _ _ _)
  | dot10 x => exact fifoBlindStep_whenEnabled (fun _ => rfl) (fifoBlind_startElement _ _ _)
  | dot110 => exact fifoBlindStep_whenEnabled (fun _ => rfl) (fifoBlind_startElement _ _ _)
  | tick => exact fifoBlindStep_whenEnabled (fun _ => rfl) fifoBlind_tickOp
  | nextLetter => exact fifoBlindStep_whenEnabled (fun _ => rfl) fifoBlind_nextLetterOp
  | nextLast => exact fifoBlindStep_whenEnabled (fun _ => rfl) fifoBlind_nextLastOp
  | symDot | symDash | symSpace | symNewline => exact fifoBlindStep_next (fifoBlind_emitAppend _)
  | lookup idx => exact fifoBlindStep_next (fifoBlind_of_commutes fun _ => rfl)
  | reset => exact fifoBlindStep_next (fifoBlind_of_commutes fun _ => rfl)
  | pop => exact absurd (.inl rfl) hpop
  | drain n => exact absurd (.inr ⟨n, rfl⟩) hpop
  | append sym => exact absurd rfl (happend sym).1
  | appendDrop sym => exact absurd rfl (happend sym).2
  | pad | writeStart | seqOverflow | playStart | walkEnd | onExpiry | offExpiry | wgapExpiry | nextGap | lgapExpiry =>
    exact fifoBlindStep_whenEnabled (fun _ => rfl) (fifoBlind_of_commutes fun _ => rfl)

/-- Settles O37: row by row, through the operations that the row performs. -/
theorem theFifoNeverInfluencesTheRest : Obligations.TheFifoNeverInfluencesTheRest :=
  fun i s s' t hpop happend => fifoBlindStep_exec i hpop happend s s' t

end Sys2Proof.Machine
end

section
/-! PROOFS of the statements of spec/43_transcript_fifo.md: APPEND in every form (R233, R234), POP and DRAIN (R236 to R238),
the two at one instant (R239), what happens to symbols that nobody reads (R232, R241, R242). -/

namespace Sys2Proof.Machine

section
variable {s : State}

/-! ## APPEND -/

theorem appendResult_of_room (h : s.count.toNat < 512) : appendResult s = .accepted :=
  if_neg (fifoFull_iff.not.mpr (Nat.not_le.mpr h))

theorem appendResult_of_full (h : 512 ≤ s.count.toNat) : appendResult s = .overflow :=
  if_pos (fifoFull_iff.mpr h)

/-- Each half of APPEND is the whole one where its condition holds (R233, R234). -/
theorem exec_append (sym : Symbol) (h : s.count.toNat < 512) : exec (.append sym) s = .next (emitAppend sym s) := by
  have hroom : (!fifoFull s) = true := by
    rw [Bool.not_eq_true', Bool.eq_false_iff, Ne, fifoFull_iff]
    exact Nat.not_le.mpr h
  rw [exec_append_eq, whenEnabled_of hroom, emitAppend_of_room sym h]

theorem exec_appendDrop (sym : Symbol) (h : 512 ≤ s.count.toNat) :
    exec (.appendDrop sym) s = .next (emitAppend sym s) := by
  rw [exec_appendDrop_eq, whenEnabled_of (fifoFull_iff.mpr h), emitAppend_of_full sym h]

theorem emitAppend_count (sym : Symbol) (s : State) :
    (emitAppend sym s).count = if s.count.toNat < 512 then s.count + 1 else s.count := by
  rcases emitAppend_cases sym s with ⟨hroom, heq⟩ | ⟨hfull, heq⟩
  · rw [heq, if_pos hroom]; rfl
  · rw [heq, if_neg (Nat.not_lt.mpr hfull)]; rfl

/-- APPEND, stored or dropped, removes nothing (R233, R234). -/
theorem emitAppend_count_ge (sym : Symbol) (s : State) :
    s.count.toNat ≤ (emitAppend sym s).count.toNat := by
  rw [emitAppend_count]
  split
  · rename_i hroom; rw [toNat_succ_of_lt hroom]; exact Nat.le_succ _
  · exact Nat.le_refl _

/-! ## POP and DRAIN -/

theorem rdValid_of_pos (h : 0 < s.count.toNat) : rdValid s = true := by
  rw [rdValid, Bool.not_eq_true', Bool.eq_false_iff]
  exact not_fifoEmpty_of_pos h

theorem rdValid_of_empty (h : s.count = 0) : rdValid s = false := by
  rw [rdValid, fifoEmpty_iff.mpr h]; rfl

theorem rdData_of_written {b : Byte} (h : 0 < s.count.toNat) (hb : memRead s.fifoMem s.rdPtr.toNat = some b) :
    rdData s = b := by
  rw [rdData, if_pos (rdValid_of_pos h), hb]; rfl

theorem exec_pop_of_written {b : Byte} (h : 0 < s.count.toNat) (hb : memRead s.fifoMem s.rdPtr.toNat = some b) :
    exec .pop s = .next (fifoTake b s) :=
  (execPop_of_pos h).trans (whenReadable_next.mpr ⟨b, hb, rfl⟩)

theorem exec_pop_of_empty (h : s.count = 0) : exec .pop s = .next s :=
  if_pos (fifoEmpty_iff.mpr h)

/-- A turn of DRAIN with a symbol wanted and one unread is a POP (R238). -/
theorem exec_drain_of_written {b : Byte} (n : Nat) (h : 0 < s.count.toNat)
    (hb : memRead s.fifoMem s.rdPtr.toNat = some b) :
    exec (.drain (n + 1)) s = .next { fifoTake b s with drainLeft := n } :=
  (execDrain_of_pos n.succ_ne_zero h).trans (whenReadable_next.mpr ⟨b, hb, rfl⟩)

/-- The loop of DRAIN ends with nothing wanted or nothing unread (R238). -/
theorem exec_drain_of_done {n : Nat} (h : n = 0 ∨ s.count = 0) : exec (.drain n) s = .next { s with drainLeft := 0 } :=
  if_pos (h.imp_right fifoEmpty_iff.mpr)

end

/-- Settles O42: each form is the APPEND that the statement writes out. -/
theorem appendStoresOrDrops : Obligations.AppendStoresOrDrops := by
  intro sym s _
  simp only [appended_eq_emitAppend]
  exact ⟨fun hroom => ⟨exec_append sym hroom, appendResult_of_room hroom⟩,
    fun hfull => ⟨exec_appendDrop sym hfull.ge, appendResult_of_full hfull.ge⟩, rfl, rfl, rfl, rfl⟩

/-- Settles O44: the entry at `rd_ptr` is what the reader sees and what POP takes. -/
theorem popTakesTheOldestSymbol : Obligations.PopTakesTheOldestSymbol :=
  ⟨fun _ _ hpos hb => ⟨rdValid_of_pos hpos, rdData_of_written hpos hb, exec_pop_of_written hpos hb⟩,
    fun _ hempty => ⟨rdValid_of_empty hempty, exec_pop_of_empty hempty⟩⟩

/-- Settles O46: by the test of the loop. -/
theorem drainPopsOneSymbolATurn : Obligations.DrainPopsOneSymbolATurn :=
  ⟨fun n _ _ => exec_drain_of_written n, fun _ => exec_drain_of_done (.inl rfl),
    fun _ _ hempty => exec_drain_of_done (.inr hempty)⟩

/-! ## A whole DRAIN -/

@[simp] theorem length_contents (s : State) : (contents s).length = s.count.toNat := by
  simp [contents]

theorem contents_of_empty {s : State} (h : s.count = 0) : contents s = [] := by
  simp [contents, h]

/-- From `s` to `t` the reader has received the first `n` of the contents and the rest is left, both in order; no event is
recorded and no time passes. -/
structure Drained (n : Nat) (s t : State) : Prop where
  received : t.received.map some = s.received.map some ++ (contents s).take n
  contents : contents t = (contents s).drop n
  trace : t.trace = s.trace
  now : t.now = s.now

section
variable {s t : State} {n : Nat}

theorem Drained.zero (s : State) : Drained 0 s s where
  received := by simp
  contents := rfl
  trace := rfl
  now := rfl

theorem Drained.count (h : Drained n s t) : t.count.toNat = s.count.toNat - min n s.count.toNat := by
  have hlen := congrArg List.length h.contents
  rw [List.length_drop, length_contents, length_contents] at hlen
  omega

/-- The first symbol, then `n` more. -/
theorem Drained.of_take {b : Byte} (hpos : 0 < s.count.toNat) (hb : memRead s.fifoMem s.rdPtr.toNat = some b)
    (h : Drained n { fifoTake b s with drainLeft := n } t) : Drained (n + 1) s t := by
  have hcons : Machine.contents s = some b :: Machine.contents { fifoTake b s with drainLeft := n } :=
    hb ▸ contents_eq_cons b hpos
  exact
    { received := by
        rw [hcons, List.take_succ_cons, h.received]
        simp
      contents := by rw [hcons, List.drop_succ_cons, h.contents]
      trace := h.trace
      now := h.now }

/-- One turn of DRAIN wants less afterwards, and what it still wants completes what it wanted (R238). -/
theorem exec_drain_turn (h : FifoOk s) (n : Nat) :
    ∃ u, exec (.drain n) s = .next u ∧ u.drainLeft ≤ n - 1 ∧ ∀ t, Drained u.drainLeft u t → Drained n s t := by
  by_cases hdone : n = 0 ∨ s.count = 0
  · refine ⟨_, exec_drain_of_done hdone, Nat.zero_le _, fun t ht => ?_⟩
    have hnone : (contents s).take n = [] ∧ (contents s).drop n = contents s := by
      rcases hdone with rfl | hempty
      · simp
      · simp [contents_of_empty hempty]
    exact ⟨by rw [hnone.1, ht.received]; simp, by rw [hnone.2, ht.contents]; rfl, ht.trace, ht.now⟩
  · obtain ⟨hn, hne⟩ := not_or.mp hdone
    have hpos : 0 < s.count.toNat := by bv_omega
    obtain ⟨m, rfl⟩ := Nat.exists_eq_succ_of_ne_zero hn
    obtain ⟨y, hy⟩ := h.oldest hpos
    exact ⟨_, exec_drain_of_written m hpos hy, Nat.le_refl m, fun t => .of_take hpos hy⟩

/-- On an empty schedule the outstanding DRAIN goes on to its end (log entries 3 and 5). -/
theorem Sound.reaches_drained (h : Sound s) (hturns : s.turns = []) :
    ∃ t, Reaches s t ∧ t.turns = [] ∧ t.drainLeft = 0 ∧ Drained s.drainLeft s t := by
  induction hleft : s.drainLeft using Nat.strong_induction_on generalizing s with
  | _ n ih =>
    by_cases hn : n = 0
    · subst hn
      exact ⟨s, .refl s, hturns, hleft, .zero s⟩
    · obtain ⟨u, hexec, hless, hdrained⟩ := exec_drain_turn h.fifo n
      have hfetch : fetchTurn s = .ok (.op (.drain n), s) :=
        fetchTurn_of_idle (hleft ▸ idleWork_of_drain (hleft ▸ hn)) (.inl hturns)
      have hstep : step s = .next u := (step_of_fetchTurn h.bench hfetch rfl).trans hexec
      obtain ⟨t, hreach, htturns, htleft, ht⟩ :=
        ih u.drainLeft (by omega) (h.next hstep).1 ((exec_turns hexec).trans hturns) rfl
      exact ⟨t, .head hstep hreach, htturns, htleft, hdrained t ht⟩

end

/-- Settles O47: the turn that is offered, then the outstanding ones. -/
theorem drainReturnsTheOldestSymbols : Obligations.DrainReturnsTheOldestSymbols := by
  intro max s hfifo _ hbench hturns
  have hsound : Sound s := ⟨hfifo, hbench, by simp [hturns]⟩
  have hfifo' : FifoOk { s with turns := [] } := hfifo.congr rfl rfl rfl rfl
  obtain ⟨u, hexec, _, hdrained⟩ := exec_drain_turn hfifo' max
  obtain ⟨hstep, huturns⟩ := hsound.step_of_taken (fetchTurn_of_offer hturns rfl) rfl hexec
  obtain ⟨t, hreach, htturns, htleft, ht⟩ := (hsound.next hstep).1.reaches_drained huturns
  obtain ⟨k, hk⟩ := Reaches.head hstep hreach
  obtain hall : Drained max { s with turns := [] } t := hdrained t ht
  exact ⟨k, t, hk, htturns, htleft, hall.received, hall.contents, hall.count, hall.trace, hall.now⟩

/-! ## Symbols that nobody reads -/

theorem satIncr_toNat (d : BitVec 16) : (satIncr d).toNat = min 65535 (d.toNat + 1) := by
  rw [satIncr_eq]
  split
  · rename_i hmax; subst hmax; rfl
  · bv_omega

/-- What APPENDs of `l` to an empty buffer leave in it when nobody reads (R241, R242). -/
structure Unread (l : List Symbol) (t : State) : Prop where
  fifo : FifoOk t
  contents : contents t = (l.take 512).map fun y => some (symbolByte y)
  trOvf : t.trOvf = decide (512 < l.length)
  dropCnt : t.dropCnt.toNat = min 65535 (l.length - 512)

theorem Unread.nil {s : State} (h : FifoOk s) (hempty : s.count = 0) (hovf : s.trOvf = false) (hdrop : s.dropCnt = 0) :
    Unread [] s where
  fifo := h
  contents := contents_of_empty hempty
  trOvf := hovf
  dropCnt := by rw [hdrop]; rfl

theorem Unread.count {l : List Symbol} {t : State} (h : Unread l t) : t.count.toNat = min 512 l.length := by
  rw [← length_contents, h.contents, List.length_map, List.length_take]

/-- One more APPEND stores its symbol as long as there were fewer than 512, and is counted from then on. -/
theorem Unread.append {l : List Symbol} {t : State} (h : Unread l t) (y : Symbol) :
    Unread (l ++ [y]) (emitAppend y t) := by
  have hcount := h.count
  rcases emitAppend_cases y t with ⟨hroom, heq⟩ | ⟨hfull, heq⟩
  · have hlen : l.length < 512 := by omega
    have hlen' : (l ++ [y]).length ≤ 512 := by rw [List.length_append]; exact hlen
    refine ⟨fifoOk_emitAppend h.fifo y, ?_, ?_, ?_⟩
    · rw [contents_emitAppend_of_room h.fifo y hroom, h.contents, List.take_of_length_le hlen.le,
        List.take_of_length_le hlen', List.map_append, List.map_singleton]
    · rw [heq, fifoStore_trOvf, emit_trOvf, h.trOvf, decide_eq_false hlen.le.not_gt, decide_eq_false hlen'.not_gt]
    · rw [heq, fifoStore_dropCnt, emit_dropCnt, h.dropCnt, Nat.sub_eq_zero_of_le hlen.le, Nat.sub_eq_zero_of_le hlen']
  · have hlen : 512 ≤ l.length := by omega
    have hlen' : (l ++ [y]).length = l.length + 1 := List.length_append
    refine ⟨fifoOk_emitAppend h.fifo y, ?_, ?_, ?_⟩
    · rw [contents_emitAppend_of_full y hfull, h.contents, List.take_append_of_le_length hlen]
    · rw [heq, hlen', decide_eq_true (Nat.lt_succ_of_le hlen)]; rfl
    · have hdrop : (emitAppend y t).dropCnt = satIncr t.dropCnt := by rw [heq]; rfl
      rw [hdrop, satIncr_toNat, h.dropCnt, hlen']
      omega

theorem Unread.of_appends (l : List Symbol) {s : State} (h : Unread [] s) :
    Unread l (l.foldl (fun u y => emitAppend y u) s) := by
  induction l using List.reverseRecOn with
  | nil => exact h
  | append_singleton l y ih =>
    rw [List.foldl_append]
    exact ih.append y

/-- Settles O49: symbol by symbol, from the young end of the list. -/
theorem unreadAppendsKeepTheFirst512 : Obligations.UnreadAppendsKeepTheFirst512 := by
  intro l s hfifo hempty hovf hdrop
  simp only [appended_eq_emitAppend]
  have h := (Unread.nil hfifo hempty hovf hdrop).of_appends l
  exact ⟨h.contents, h.trOvf, h.dropCnt⟩

/-! ## APPEND and POP at one instant -/

section
variable {s t u : State}

theorem execAll_pair {i j : Instr} (hi : exec i s = .next t) (hj : exec j t = .next u) :
    execAll [i, j] s = .next u := by
  simp only [execAll, hi, hj]

theorem fifoTake_room (h : FifoOk s) (b : Byte) (hpos : 0 < s.count.toNat) : (fifoTake b s).count.toNat < 512 := by
  have hle := h.count_le
  rw [fifoTake_count, toNat_pred_of_pos hpos]
  omega

/-- Between empty and full it does not matter which of the two is performed first (R239). -/
theorem fifoTake_emitAppend (h : FifoOk s) (sym : Symbol) (b : Byte) (hpos : 0 < s.count.toNat)
    (hroom : s.count.toNat < 512) : fifoTake b (emitAppend sym s) = emitAppend sym (fifoTake b s) := by
  have hroom' := fifoTake_room h b hpos
  have hcount : s.count + 1 - 1 = s.count - 1 + 1 := by
    rw [BitVec.add_sub_cancel, BitVec.sub_add_cancel]
  rw [emitAppend_of_room sym hroom, emitAppend_of_room sym hroom']
  simp only [fifoTake, fifoStore, emit, hcount]

/-- An APPEND to a sound FIFO leaves its oldest symbol where it is. -/
theorem memRead_emitAppend_oldest (h : FifoOk s) (sym : Symbol) (hpos : 0 < s.count.toNat) :
    memRead (emitAppend sym s).fifoMem s.rdPtr.toNat = memRead s.fifoMem s.rdPtr.toNat := by
  rcases Nat.lt_or_ge s.count.toNat 512 with hroom | hfull
  · have hne : s.rdPtr.toNat ≠ s.wrPtr.toNat := by
      have hptr := h.pointers
      omega
    exact memRead_emitAppend_other sym hne
  · rw [emitAppend_of_full sym hfull, raise_fifoMem, emit_fifoMem]

/-- So a POP after the APPEND takes the symbol that a POP before it takes. -/
theorem exec_pop_after_append (h : FifoOk s) (sym : Symbol) {b : Byte} (hpos : 0 < s.count.toNat)
    (hb : memRead s.fifoMem s.rdPtr.toNat = some b) :
    exec .pop (emitAppend sym s) = .next (fifoTake b (emitAppend sym s)) := by
  refine exec_pop_of_written (hpos.trans_le (emitAppend_count_ge sym s)) ?_
  rw [emitAppend_rdPtr, memRead_emitAppend_oldest h sym hpos, hb]

/-- A POP makes room for the APPEND that follows it (R239). -/
theorem execAll_pop_append (h : FifoOk s) (sym : Symbol) {b : Byte} (hpos : 0 < s.count.toNat)
    (hb : memRead s.fifoMem s.rdPtr.toNat = some b) :
    execAll [.pop, .append sym] s = .next (emitAppend sym (fifoTake b s)) :=
  execAll_pair (exec_pop_of_written hpos hb) (exec_append sym (fifoTake_room h b hpos))

end

/-- Settles O50: below 512 the APPEND and the POP commute; at 512 the POP that comes first makes room. -/
theorem appendAndPopInEitherOrder : Obligations.AppendAndPopInEitherOrder := by
  intro sym s h
  refine ⟨fun hpos hroom => ?_, fun hfull => ?_⟩
  · obtain ⟨y, hb⟩ := h.oldest hpos
    have happend := execAll_pair (exec_append sym hroom) (exec_pop_after_append h sym hpos hb)
    rw [fifoTake_emitAppend h sym _ hpos hroom] at happend
    have hroom' := fifoTake_room h (symbolByte y) hpos
    have hcontents : contents s = some (symbolByte y) :: contents (fifoTake (symbolByte y) s) :=
      hb ▸ contents_eq_cons _ hpos
    refine ⟨_, symbolByte y, happend, execAll_pop_append h sym hpos hb, ?_, ?_, ?_, ?_⟩
    · rw [emitAppend_count, if_pos hroom', fifoTake_count, BitVec.sub_add_cancel]
    · rw [hcontents, List.tail_cons]
    · rw [emitAppend_received, fifoTake_received]
    · rw [contents_emitAppend_of_room (fifoOk_fifoTake h _ hpos) sym hroom', hcontents, List.tail_cons]
  · have hpos : 0 < s.count.toNat := by omega
    obtain ⟨y, hb⟩ := h.oldest hpos
    have hroom' := fifoTake_room h (symbolByte y) hpos
    have hdropped : (emitAppend sym s).count = s.count := by
      rw [emitAppend_count, if_neg hfull.not_lt]
    refine ⟨⟨_, execAll_pair (exec_appendDrop sym hfull.ge) (exec_pop_after_append h sym hpos hb), ?_, ?_⟩,
      _, execAll_pop_append h sym hpos hb, ?_, ?_, ?_⟩
    · rw [fifoTake_count, hdropped, toNat_pred_of_pos hpos, hfull]
    · rw [emitAppend_of_full sym hfull.ge]; rfl
    · rw [emitAppend_count, if_pos hroom', toNat_succ_of_lt hroom', fifoTake_count, toNat_pred_of_pos hpos, hfull]
    · rw [emitAppend_of_room sym hroom']; rfl
    · rw [emitAppend_of_room sym hroom']; rfl

/-! ## What removes symbols -/

/-- Every move but those of the reader and RESET leaves the unread symbols in the FIFO (R232). -/
theorem Moves.keeps_unread {s t : State} {i : Instr} (hm : Moves s i t) (hpop : ¬ pops i) (hreset : i ≠ .reset) :
    s.count.toNat ≤ t.count.toNat ∧ t.rdPtr = s.rdPtr := by
  have same (hc : t.count = s.count) (hr : t.rdPtr = s.rdPtr) : s.count.toNat ≤ t.count.toNat ∧ t.rdPtr = s.rdPtr :=
    ⟨by rw [hc], hr⟩
  cases hm with
  | pop _ _ _ hi => exact absurd hi hpop
  | drained n => exact absurd (.inr ⟨n, rfl⟩) hpop
  | reset => exact absurd rfl hreset
  | stay | overflow | lookup => exact same rfl rfl
  | begin | letter | space | ignore | finish => exact same (by simp) (by simp)
  | play | code | pad | walkEnd | tick | onExpiry | offExpiry | wgapExpiry | lgapExpiry | nextGap =>
    exact same (by simp) (by simp)
  | gap => exact ⟨emitAppend_count_ge .space { s with curGap := true }, by simp⟩
  | dash | dot => exact ⟨emitAppend_count_ge _ (emitOn s), by simp⟩
  | nextLetter | nextLast => exact ⟨emitAppend_count_ge _ s, by simp⟩
  | append | drop => exact ⟨emitAppend_count_ge _ s, by simp⟩

/-- Settles O54: by the moves of `exec`. -/
theorem onlyTheReaderOrResetRemovesSymbols : Obligations.OnlyTheReaderOrResetRemovesSymbols :=
  fun i _ _ _ hpop hreset h => (exec_moves i h).keeps_unread hpop hreset

end Sys2Proof.Machine
end

section
/-! PROOFS of the statements of spec/60_exceptions.md: what a condition records stays until RESET (R269). -/

namespace Sys2Proof.Machine

section
variable {s t u : State}

/-! ## What the conditions record -/

/-- What the conditions recorded in `s` (R260) is still recorded in `t`. -/
def KeepsRecorded (s t : State) : Prop :=
  (s.seqOvf = true → t.seqOvf = true) ∧ (s.trOvf = true → t.trOvf = true) ∧ s.dropCnt.toNat ≤ t.dropCnt.toNat

theorem keepsRecorded_of_eq (hseq : t.seqOvf = s.seqOvf) (htr : t.trOvf = s.trOvf) (hdrop : t.dropCnt = s.dropCnt) :
    KeepsRecorded s t :=
  ⟨fun h => hseq.trans h, fun h => htr.trans h, by rw [hdrop]⟩

theorem KeepsRecorded.trans (hst : KeepsRecorded s t) (htu : KeepsRecorded t u) : KeepsRecorded s u := by
  obtain ⟨hseq, htr, hdrop⟩ := hst
  obtain ⟨hseq', htr', hdrop'⟩ := htu
  exact ⟨hseq' ∘ hseq, htr' ∘ htr, hdrop.trans hdrop'⟩

/-- Saturation (R39) is what keeps `drop_cnt` from wrapping around to 0. -/
theorem toNat_le_satIncr (d : BitVec 16) : d.toNat ≤ (satIncr d).toNat := by
  have := d.isLt
  rw [satIncr_toNat]
  omega

/-- Taking a condition sets a flag or counts up; it clears nothing. -/
theorem keepsRecorded_raise (x : Condition) (s : State) : KeepsRecorded s (raise x s) := by
  cases x with
  | undefinedCharacter | inputTransferFailure => exact keepsRecorded_of_eq rfl rfl rfl
  | transcriptOverflow => exact ⟨id, fun _ => rfl, toNat_le_satIncr s.dropCnt⟩
  | sequenceOverflow => exact ⟨fun _ => rfl, id, Nat.le_refl _⟩

/-! ## The operations that can take one -/

theorem keepsRecorded_emitAppend (sym : Symbol) (s : State) : KeepsRecorded s (emitAppend sym s) := by
  rcases emitAppend_cases sym s with ⟨_, heq⟩ | ⟨_, heq⟩
  · rw [heq]; exact keepsRecorded_of_eq rfl rfl rfl
  · rw [heq]; exact keepsRecorded_raise .transcriptOverflow (emit (.append sym) s)

theorem keepsRecorded_letterOp (k : Letter) (s : State) : KeepsRecorded s (letterOp k s) := by
  rcases letterOp_cases k s with ⟨_, heq⟩ | ⟨_, heq⟩
  · rw [heq]; exact keepsRecorded_raise .sequenceOverflow s
  · rw [heq]; exact keepsRecorded_of_eq rfl rfl rfl

theorem keepsRecorded_spaceOp (s : State) : KeepsRecorded s (spaceOp s) := by
  rcases spaceOp_cases s with ⟨_, heq⟩ | ⟨_, _, heq⟩ | ⟨_, _, heq⟩
  · rw [heq]; exact keepsRecorded_of_eq rfl rfl rfl
  · rw [heq]; exact keepsRecorded_raise .sequenceOverflow s
  · rw [heq]; exact keepsRecorded_of_eq rfl rfl rfl

/-- Beginning a write re-initialises the builder's registers but not `seq_ovf` (R26, R163). -/
theorem keepsRecorded_writeBegun (s : State) : KeepsRecorded s (writeBegun s) := by
  unfold writeBegun
  split <;> exact keepsRecorded_of_eq rfl rfl rfl

/-! ## The moves -/

/-- Every move but RESET keeps what the conditions recorded: it takes one, on its way or not, or it leaves the three
registers alone. -/
theorem Moves.keepsRecorded {i : Instr} (hm : Moves s i t) (hreset : i ≠ .reset) : KeepsRecorded s t := by
  cases hm with
  | reset => exact absurd rfl hreset
  | overflow => exact keepsRecorded_raise .sequenceOverflow s
  | letter _ k => exact (keepsRecorded_writeBegun s).trans (keepsRecorded_letterOp k _)
  | space => exact (keepsRecorded_writeBegun s).trans (keepsRecorded_spaceOp _)
  | ignore => exact keepsRecorded_writeBegun s
  | finish => exact (keepsRecorded_writeBegun s).trans (keepsRecorded_of_eq (by simp) (by simp) (by simp))
  | append _ sym | drop sym => exact keepsRecorded_emitAppend sym s
  | gap => exact keepsRecorded_emitAppend .space { s with curGap := true }
  | dash => exact keepsRecorded_emitAppend .dash (emitOn s)
  | dot => exact keepsRecorded_emitAppend .dot (emitOn s)
  | nextLetter => exact keepsRecorded_emitAppend .space s
  | nextLast => exact keepsRecorded_emitAppend .newline s
  | stay | drained | lookup | pop => exact keepsRecorded_of_eq rfl rfl rfl
  | begin | play | code | pad | walkEnd | tick | onExpiry | offExpiry | wgapExpiry | lgapExpiry | nextGap =>
    exact keepsRecorded_of_eq (by simp) (by simp) (by simp)

end

/-- Settles O52: by the moves of `exec`. -/
theorem stickyFlagsStayUntilReset : Obligations.StickyFlagsStayUntilReset :=
  fun i _ _ hreset h => (exec_moves i h).keepsRecorded hreset

end Sys2Proof.Machine
end

section
/-! PROOF of the statement of spec/70_reset_and_hazards.md: what RESET leaves, from any state (R292). -/

namespace Sys2Proof.Machine

/-! ## The ports of a block that is idle -/

section
variable {s : State}

/-- In IDLE the text port is ready (R41) and `busy` is low (R44). -/
theorem txReady_of_idle (h : s.phase = .idle) : txReady s = true := by
  rw [txReady, h]; rfl

theorem busy_of_idle (h : s.phase = .idle) : busy s = false := by
  rw [busy, h]; rfl

end

/-! ## RESET -/

/-- RESET has no condition (R292). -/
theorem exec_reset (s : State) : exec .reset s = .next (resetOp s) := rfl

theorem resetOp_phase (s : State) : (resetOp s).phase = .idle := rfl

theorem resetOp_count (s : State) : (resetOp s).count = 0 := rfl

/-- The one event of RESET is the `Off` of a transducer that was on; RESET takes no time and keeps what was recorded. -/
theorem resetOp_trace (s : State) :
    (resetOp s).trace = if s.led = true then s.trace ++ [⟨s.now, .off⟩] else s.trace := rfl

/-- Settles O51: the registers are those of `State.reset`; the ports follow from the phase and the count. -/
theorem resetLeavesTheResetState : Obligations.ResetLeavesTheResetState := by
  intro s
  have hphase := resetOp_phase s
  have hcount := resetOp_count s
  refine ⟨resetOp s, exec_reset s, hphase, ?pendingSpace, ?boundary, ?seqLen, ?seqOvf,
    ?pState, ?rdIdx, ?shreg, ?bitCnt, ?curElem, ?curGap, ?waitCnt, ?led, ?wrPtr, ?rdPtr, hcount, ?trOvf, ?dropCnt,
    resetOp_trace s, txReady_of_idle hphase, rdValid_of_empty hcount, busy_of_idle hphase⟩
  all_goals rfl

end Sys2Proof.Machine
end
